-- ==== Sys2Proof/Word.lean ====
section
/-! DEFINITION. The word types of the DS3231 codec block: every datum is 8 bits, except the 16-bit DOW year
operand, TEMP.DEC result and TIME.DEC year result (00_scope.md R8, last paragraph). -/

namespace Sys2Proof

/-- One byte: an operand byte, a payload byte, a harness variable's value or one device register (R8, R25, R41). -/
abbrev Byte := BitVec 8

/-- A 16-bit operand or result, which a frame carries as two bytes (R72). -/
abbrev Half := BitVec 16

end Sys2Proof
end

