-- ==== Sys2Proof/Config.lean ====
section
/-! DEFINITION. The implementation parameters of 00_scope.md R8: the bit positions the spec fixes, and the values
it leaves OPEN, which stand here as opaque constants (no body, so nothing can be proved about their value). -/

namespace Sys2Proof

/-- What one bus transaction draws (20_memory.md R46): whether it fails and, for a failed write, which bytes
hold the written value: bit k speaks of byte k of the transaction (n is at most 8, R42). -/
structure BusDraw where
  fail    : Bool
  reached : BitVec 8
  deriving DecidableEq, Repr, Inhabited

/-- One step of the device agent, as plain data (20_memory.md R52). `none` leaves a byte alone. What each field
may change is decided where it is applied (Machine/Device.lean), which keeps every step within R52. -/
structure DeviceStep where
  /-- new bytes for 0x00..0x06 -/
  time   : Vector (Option Byte) 7
  /-- status bits to raise: only bits 0, 1 and 7 are looked at -/
  raise  : Byte
  /-- new values for status bits 2..6: only those bits are looked at -/
  other  : Option Byte
  /-- new bytes for 0x11 and 0x12 -/
  temp   : Vector (Option Byte) 2
  deriving DecidableEq, Repr, Inhabited

namespace Config

/-! ## Fixed by the spec (R8); see log entry 14 for the ones that rest on general knowledge -/

/-- ALM_MASK_BIT: bit of each alarm register byte that holds the field's match-mask bit (D11). -/
abbrev almMaskBit : Nat := 7
/-- ALM_DYDT_BIT: bit of the alarm day byte that says "day-of-week match" (D11). -/
abbrev almDydtBit : Nat := 6
/-- MODE_DY_BIT: bit of the alarm mode code that selects day-of-week (1) or day-of-month (0) (D10). -/
abbrev modeDyBit : Nat := 3
/-- MODE_M_BITS: bit 7 = M1, the seconds mask (D9). -/
abbrev modeM1Bit : Nat := 7
/-- MODE_M_BITS: bit 6 = M2, the minutes mask (D9). -/
abbrev modeM2Bit : Nat := 6
/-- MODE_M_BITS: bit 5 = M3, the hours mask (D9). -/
abbrev modeM3Bit : Nat := 5
/-- MODE_M_BITS: bit 4 = M4, the day mask (D9). -/
abbrev modeM4Bit : Nat := 4
/-- CTRL_A1IE_BIT: control-register bit that enables the alarm 1 interrupt (D12). -/
abbrev ctrlA1ieBit : Nat := 0
/-- CTRL_A2IE_BIT: control-register bit that enables the alarm 2 interrupt (D12). -/
abbrev ctrlA2ieBit : Nat := 1
/-- CTRL_INTCN_BIT: control-register global interrupt-output bit (D12). -/
abbrev ctrlIntcnBit : Nat := 2
/-- The harness variables are x0..x31 (R8, D18). -/
abbrev varCount : Nat := 32

/-! ## OPEN (R8). Free values: opaque, applied to the state's draw counter (log entry 1) or to an address -/

/-- BCD_ENC_OOR: any byte, for a BCD form of a value above 99 (R91, R122, D6). -/
opaque bcdEncOor : Nat → Byte
/-- DOW_OOD: any byte, for DOW outside DOWDOM (R102, D8). -/
opaque dowOod : Nat → Byte
/-- BUS_FAIL: a draw per harness bus statement (R46, D22). -/
opaque busFail : Nat → BusDraw
/-- DEVICE_STEP: the steps, any number, that the device agent takes before one harness statement (R52, D20). -/
opaque deviceSteps : Nat → List DeviceStep
/-- RI_INIT: the register image at the start of a run, by address (R26, R34, D27). -/
opaque riInit : Nat → Byte
/-- RMW_REREAD: whether a session's read-modify-write of the status register reads it again (R132, D17). -/
opaque rmwReread : Bool

end Config

end Sys2Proof
end

