-- ==== Sys2Proof/Machine/AddressMap.lean ====
section
/-! DEFINITION. The device register space (20_memory.md R41 to R43): the named registers, the admitted addresses and
accesses, and the register image as a list of cells with its canonical form. -/

namespace Sys2Proof.Machine

/-- The register image RI (10_state.md R26): one cell for each admitted address, addresses strictly rising. -/
abbrev Memory := List Host.Cell

/-! ## The address map (R43) -/

/-- first byte of the time block, 7 bytes (R27) -/
abbrev timeAddr : Nat := 0x00
/-- first byte of the alarm 1 block, 4 bytes (R28) -/
abbrev alarm1Addr : Nat := 0x07
/-- first byte of the alarm 2 block, 3 bytes (R29) -/
abbrev alarm2Addr : Nat := 0x0B
/-- the control register (R30) -/
abbrev controlAddr : Nat := 0x0E
/-- the status register (R31) -/
abbrev statusAddr : Nat := 0x0F
/-- the temperature pair, most significant byte first (R32) -/
abbrev tempAddr : Nat := 0x11

/-- One address is admitted: 0x00..0x0F and 0x11..0x12 (R42). -/
def admittedAddr (a : Nat) : Bool := a ≤ 0x0F || (0x11 ≤ a && a ≤ 0x12)

/-- An access of n bytes from a is admitted: n in 1..8 and every byte's address admitted (R42). -/
def admitted (a n : Nat) : Bool := 1 ≤ n && n ≤ 8 && (List.range n).all (fun k => admittedAddr (a + k))

/-- The admitted addresses, rising. -/
def admittedAddrs : List Nat := (List.range 256).filter admittedAddr

/-! ## The register image as data -/

/-- The register image at the start of a run: the draw RI_INIT at every admitted address (R26, R34; log entry 2). -/
def Memory.initial : Memory := admittedAddrs.map (fun a => (a, Config.riInit a))

/-- The canonical form: exactly the admitted addresses are listed, in rising order. An address that is not listed
does not exist, so no entry equals what an unlisted address reads as. -/
abbrev Memory.wf (m : Memory) : Prop := m.map Prod.fst = admittedAddrs

end Sys2Proof.Machine
end

