-- ==== Sys2Proof/Syntax.lean ====
section
/-! DEFINITION. The instructions: the twelve block commands (30_encoding.md R73, R77) and the eleven harness
statements (R78), one constructor for each row of spec/opcode_table.json, and harness programs (48_harness.md R170). -/

namespace Sys2Proof

/-- The mnemonics of the block commands (R73): what a harness OP names. -/
inductive Cmd where
  | bcdEnc | bcdDec | dow | tempDec | almMap | almDec | almCtl
  | statAlm | statOsf | statClr | timeEnc | timeDec
  deriving DecidableEq, Repr

/-- A label of a program (R78). Log entry 8: a name is a number here. -/
abbrev Label := Nat

/-- One instruction. A block command carries its operand bytes (R73, R77: every operand is a byte literal). A
harness statement carries variable indices, immediates, counts and labels as naturals, so that a statement that
fails a check of R170 can be written down (and is then refused). -/
inductive Instr where
  /-- BCD.ENC (R91) -/
  | bcdEnc (n : Byte)
  /-- BCD.DEC (R93) -/
  | bcdDec (b : Byte)
  /-- DOW (R101): the 16-bit year as two bytes, most significant first (R72) -/
  | dow (yearHi yearLo month day : Byte)
  /-- TEMP.DEC (R111) -/
  | tempDec (msb lsb : Byte)
  /-- ALM.MAP (R125) -/
  | almMap (mode sec min hour dow day : Byte)
  /-- ALM.DEC (R127) -/
  | almDec (sel r0 r1 r2 r3 : Byte)
  /-- ALM.CTL (R126) -/
  | almCtl (mode ctrl : Byte)
  /-- STAT.ALM (R128) -/
  | statAlm (st : Byte)
  /-- STAT.OSF (R129) -/
  | statOsf (st : Byte)
  /-- STAT.CLR (R130) -/
  | statClr (st m : Byte)
  /-- TIME.ENC (R150) -/
  | timeEnc (sec min hour dow day month yoff : Byte)
  /-- TIME.DEC (R152) -/
  | timeDec (t0 t1 t2 t3 t4 t5 t6 : Byte)
  /-- RD xd, addr, n (R172) -/
  | rd (xd addr n : Nat)
  /-- WR addr, xs, n (R173) -/
  | wr (addr xs n : Nat)
  /-- MOV xd, xs (R174) -/
  | mov (xd xs : Nat)
  /-- MOVI xd, imm8 (R175) -/
  | movi (xd imm : Nat)
  /-- OP m, xd, xs0, .., xs(L-1) (R176) -/
  | op (m : Cmd) (xd : Nat) (xs : List Nat)
  /-- BEQZ xs, label (R177) -/
  | beqz (xs : Nat) (label : Label)
  /-- BNEZ xs, label (R178) -/
  | bnez (xs : Nat) (label : Label)
  /-- BOK label (R179) -/
  | bok (label : Label)
  /-- BNOK label (R180) -/
  | bnok (label : Label)
  /-- JMP label (R181) -/
  | jmp (label : Label)
  /-- HALT (R182) -/
  | halt
  deriving DecidableEq, Repr

/-- A harness program: a finite list of statements, numbered from 0, with labels (R170). A label stands in front
of the statement whose index it is paired with; the index one past the last statement is allowed (48_harness.md
section 4; log entry 8). -/
structure Program where
  stmts  : List Instr
  labels : List (Label × Nat)
  deriving DecidableEq, Repr

/-- A program with no statement. -/
def Program.empty : Program := ⟨[], []⟩

end Sys2Proof
end

