-- ==== Sys2Proof/Decode.lean ====
section
/-! DEFINITION. The opcode map and the length of each frame (30_encoding.md R73), the decoder of the block's frames,
total on any bytes (R70, R71, R75), the encoder written from the same table, and the host's word interface.
Harness statements have no binary encoding (R78): they are neither decoded nor encoded. -/

namespace Sys2Proof

/-! ## The opcode map (R73) -/

/-- The opcode byte of a command (R73). -/
def Cmd.opc : Cmd → Byte
  | .bcdEnc  => 0x01#8
  | .bcdDec  => 0x02#8
  | .dow     => 0x10#8
  | .tempDec => 0x20#8
  | .almMap  => 0x30#8
  | .almDec  => 0x31#8
  | .almCtl  => 0x32#8
  | .statAlm => 0x38#8
  | .statOsf => 0x39#8
  | .statClr => 0x3A#8
  | .timeEnc => 0x40#8
  | .timeDec => 0x41#8

/-- L, the operand length of a command (R73). -/
def Cmd.operandLen : Cmd → Nat
  | .bcdEnc => 1 | .bcdDec => 1 | .dow => 4 | .tempDec => 2 | .almMap => 6 | .almDec => 5 | .almCtl => 2
  | .statAlm => 1 | .statOsf => 1 | .statClr => 2 | .timeEnc => 7 | .timeDec => 7

/-- R, the payload length of a command (R73). -/
def Cmd.payloadLen : Cmd → Nat
  | .bcdEnc => 1 | .bcdDec => 1 | .dow => 1 | .tempDec => 2 | .almMap => 8 | .almDec => 5 | .almCtl => 1
  | .statAlm => 1 | .statOsf => 1 | .statClr => 1 | .timeEnc => 7 | .timeDec => 8

/-- The rows of the table, in its order (R73). -/
def Cmd.all : List Cmd :=
  [.bcdEnc, .bcdDec, .dow, .tempDec, .almMap, .almDec, .almCtl, .statAlm, .statOsf, .statClr, .timeEnc, .timeDec]

/-- The command of an opcode byte; every byte that is not in the table is illegal (R75). -/
def Cmd.ofOpc (b : Byte) : Option Cmd := Cmd.all.find? (fun c => c.opc == b)

/-- The instruction a command makes of its operand bytes, in frame order (R70, R73); none unless there are
exactly L of them. -/
def Cmd.assemble : Cmd → List Byte → Option Instr
  | .bcdEnc,  [n]                          => some (.bcdEnc n)
  | .bcdDec,  [b]                          => some (.bcdDec b)
  | .dow,     [yh, yl, m, d]               => some (.dow yh yl m d)
  | .tempDec, [msb, lsb]                   => some (.tempDec msb lsb)
  | .almMap,  [mode, se, mi, h, dw, d]     => some (.almMap mode se mi h dw d)
  | .almDec,  [sel, r0, r1, r2, r3]        => some (.almDec sel r0 r1 r2 r3)
  | .almCtl,  [mode, ctrl]                 => some (.almCtl mode ctrl)
  | .statAlm, [s]                          => some (.statAlm s)
  | .statOsf, [s]                          => some (.statOsf s)
  | .statClr, [s, m]                       => some (.statClr s m)
  | .timeEnc, [se, mi, h, dw, d, mo, yo]   => some (.timeEnc se mi h dw d mo yo)
  | .timeDec, [t0, t1, t2, t3, t4, t5, t6] => some (.timeDec t0 t1 t2 t3 t4 t5 t6)
  | _, _                                   => none

/-! ## Decoding (R70, R71) -/

/-- Why no frame is decoded from the front of a byte stream. -/
inductive DecodeError where
  /-- The first byte is no opcode of the table: the frame is that one byte and its response is 0x01 (R71, R201). -/
  | illegalOpcode (opc : Byte)
  /-- Not all 1 + L bytes are present yet, so nothing is decoded (R71; log entry 5). -/
  | incomplete
  deriving DecidableEq, Repr

/-- Decode the frame at the front of a byte stream: the instruction and the rest of the stream (R71). -/
def decode : List Byte → Except DecodeError (Instr × List Byte)
  | [] => .error .incomplete
  | opc :: rest =>
    match Cmd.ofOpc opc with
    | none => .error (.illegalOpcode opc)
    | some c =>
      match c.assemble (rest.take c.operandLen) with
      | some i => .ok (i, rest.drop c.operandLen)
      | none   => .error .incomplete

/-! ## Encoding (R70, R73) -/

/-- The command frame of an instruction: opcode byte, then the operand bytes in order. Harness statements have
none (R78). -/
def encode : Instr → Option (List Byte)
  | .bcdEnc n                     => some [Cmd.bcdEnc.opc, n]
  | .bcdDec b                     => some [Cmd.bcdDec.opc, b]
  | .dow yh yl m d                => some [Cmd.dow.opc, yh, yl, m, d]
  | .tempDec msb lsb              => some [Cmd.tempDec.opc, msb, lsb]
  | .almMap mode se mi h dw d     => some [Cmd.almMap.opc, mode, se, mi, h, dw, d]
  | .almDec sel r0 r1 r2 r3       => some [Cmd.almDec.opc, sel, r0, r1, r2, r3]
  | .almCtl mode ctrl             => some [Cmd.almCtl.opc, mode, ctrl]
  | .statAlm s                    => some [Cmd.statAlm.opc, s]
  | .statOsf s                    => some [Cmd.statOsf.opc, s]
  | .statClr s m                  => some [Cmd.statClr.opc, s, m]
  | .timeEnc se mi h dw d mo yo   => some [Cmd.timeEnc.opc, se, mi, h, dw, d, mo, yo]
  | .timeDec t0 t1 t2 t3 t4 t5 t6 => some [Cmd.timeDec.opc, t0, t1, t2, t3, t4, t5, t6]
  | .rd _ _ _ | .wr _ _ _ | .mov _ _ | .movi _ _ | .op _ _ _ => none
  | .beqz _ _ | .bnez _ _ | .bok _ | .bnok _ | .jmp _ | .halt => none

/-! ## The host's words -/

/-- The bytes of a word numbered as the table numbers it: bits 7..0 are the first byte of the frame, bits 15..8
the second. -/
def wordBytes (w : Nat) : Nat → List Byte
  | 0     => []
  | k + 1 => BitVec.ofNat 8 w :: wordBytes (w / 256) k

/-- The longest frame, 1 + 7 bytes (R73). -/
def maxFrameLen : Nat := 8

/-- The frame that a word of `nbits` bits gives: the bits above `nbits` are 0, and the frame is cut to the length
its opcode fixes (R71; one byte for an illegal opcode). -/
def wordFrame (nbits w : Nat) : List Byte :=
  match wordBytes (w % 2 ^ nbits) maxFrameLen with
  | [] => []
  | opc :: rest =>
    match Cmd.ofOpc opc with
    | none   => [opc]
    | some c => opc :: rest.take c.operandLen

/-- What the decoder reads from a word of the opcode table. -/
def decodeTableWord (nbits w : Nat) : Option Instr :=
  match decode (wordFrame nbits w) with
  | .ok (i, _) => some i
  | .error _   => none

end Sys2Proof
end

