-- ==== Sys2Proof/WellFormed.lean ====
section
/-! DEFINITION. The named well-formedness checks of harness programs (48_harness.md R170): LBL, VAR, CNT, IMM, ARITY,
and the model's own check that a statement of a program is a harness statement (30_encoding.md R78; log entry 9).
A program that fails a check is refused as a whole. -/

namespace Sys2Proof

/-- The named checks (R170). -/
inductive Check where
  /-- every label is defined once, and every label used is defined -/
  | lbl
  /-- every variable index is in 0..31, also the last one a statement reads or writes -/
  | var
  /-- n is in 1..8 for RD and WR -/
  | cnt
  /-- every immediate is in 0..255 -/
  | imm
  /-- OP names exactly L source variables -/
  | arity
  /-- a statement is one of R78's eleven; a bare block command is none (log entry 9) -/
  | stmt
  deriving DecidableEq, Repr

namespace Instr

/-- The variables `base .. base + count - 1` all exist (R170 VAR). -/
def varsOk (base count : Nat) : Bool := base < Config.varCount && base + count ≤ Config.varCount

/-- VAR. -/
def checkVar : Instr → Bool
  | .rd xd _ n      => varsOk xd n
  | .wr _ xs n      => varsOk xs n
  | .mov xd xs      => varsOk xd 1 && varsOk xs 1
  | .movi xd _      => varsOk xd 1
  | .op m xd xs     => varsOk xd m.payloadLen && xs.all (fun i => varsOk i 1)
  | .beqz xs _      => varsOk xs 1
  | .bnez xs _      => varsOk xs 1
  | .bok _ | .bnok _ | .jmp _ | .halt => true
  | .bcdEnc _ | .bcdDec _ | .dow _ _ _ _ | .tempDec _ _ | .almMap _ _ _ _ _ _ | .almDec _ _ _ _ _ | .almCtl _ _ => true
  | .statAlm _ | .statOsf _ | .statClr _ _ | .timeEnc _ _ _ _ _ _ _ | .timeDec _ _ _ _ _ _ _ => true

/-- CNT. -/
def checkCnt : Instr → Bool
  | .rd _ _ n => 1 ≤ n && n ≤ 8
  | .wr _ _ n => 1 ≤ n && n ≤ 8
  | .mov _ _ | .movi _ _ | .op _ _ _ | .beqz _ _ | .bnez _ _ | .bok _ | .bnok _ | .jmp _ | .halt => true
  | .bcdEnc _ | .bcdDec _ | .dow _ _ _ _ | .tempDec _ _ | .almMap _ _ _ _ _ _ | .almDec _ _ _ _ _ | .almCtl _ _ => true
  | .statAlm _ | .statOsf _ | .statClr _ _ | .timeEnc _ _ _ _ _ _ _ | .timeDec _ _ _ _ _ _ _ => true

/-- IMM: imm8 of MOVI, and the address immediate of RD and WR (R78). An address that is not admitted is no failure
here; it faults when the statement runs (R170). -/
def checkImm : Instr → Bool
  | .rd _ a _   => a ≤ 255
  | .wr a _ _   => a ≤ 255
  | .movi _ imm => imm ≤ 255
  | .mov _ _ | .op _ _ _ | .beqz _ _ | .bnez _ _ | .bok _ | .bnok _ | .jmp _ | .halt => true
  | .bcdEnc _ | .bcdDec _ | .dow _ _ _ _ | .tempDec _ _ | .almMap _ _ _ _ _ _ | .almDec _ _ _ _ _ | .almCtl _ _ => true
  | .statAlm _ | .statOsf _ | .statClr _ _ | .timeEnc _ _ _ _ _ _ _ | .timeDec _ _ _ _ _ _ _ => true

/-- ARITY. -/
def checkArity : Instr → Bool
  | .op m _ xs => xs.length == m.operandLen
  | .rd _ _ _ | .wr _ _ _ | .mov _ _ | .movi _ _ | .beqz _ _ | .bnez _ _ | .bok _ | .bnok _ | .jmp _ | .halt => true
  | .bcdEnc _ | .bcdDec _ | .dow _ _ _ _ | .tempDec _ _ | .almMap _ _ _ _ _ _ | .almDec _ _ _ _ _ | .almCtl _ _ => true
  | .statAlm _ | .statOsf _ | .statClr _ _ | .timeEnc _ _ _ _ _ _ _ | .timeDec _ _ _ _ _ _ _ => true

/-- The label a statement uses, if it uses one. -/
def labelUsed : Instr → Option Label
  | .beqz _ l | .bnez _ l | .bok l | .bnok l | .jmp l => some l
  | .rd _ _ _ | .wr _ _ _ | .mov _ _ | .movi _ _ | .op _ _ _ | .halt => none
  | .bcdEnc _ | .bcdDec _ | .dow _ _ _ _ | .tempDec _ _ | .almMap _ _ _ _ _ _ | .almDec _ _ _ _ _ | .almCtl _ _ => none
  | .statAlm _ | .statOsf _ | .statClr _ _ | .timeEnc _ _ _ _ _ _ _ | .timeDec _ _ _ _ _ _ _ => none

/-- Whether an instruction is a harness statement (R78) rather than a block command (R77). -/
def isStatement : Instr → Bool
  | .rd _ _ _ | .wr _ _ _ | .mov _ _ | .movi _ _ | .op _ _ _ | .beqz _ _ | .bnez _ _ | .bok _ | .bnok _ | .jmp _ | .halt => true
  | .bcdEnc _ | .bcdDec _ | .dow _ _ _ _ | .tempDec _ _ | .almMap _ _ _ _ _ _ | .almDec _ _ _ _ _ | .almCtl _ _ => false
  | .statAlm _ | .statOsf _ | .statClr _ _ | .timeEnc _ _ _ _ _ _ _ | .timeDec _ _ _ _ _ _ _ => false

/-- The label a statement uses is defined in the program (the second half of LBL). -/
def checkLbl (p : Program) (i : Instr) : Bool :=
  match i.labelUsed with
  | none   => true
  | some l => p.labels.any (fun e => e.1 == l)

/-- The first check, in R170's order, that an instruction fails within a program (log entry 10). -/
def failedCheck? (p : Program) (i : Instr) : Option Check :=
  if !i.checkLbl p then some .lbl
  else if !i.checkVar then some .var
  else if !i.checkCnt then some .cnt
  else if !i.checkImm then some .imm
  else if !i.checkArity then some .arity
  else none

/-- An instruction passes every check of R170 within a program. -/
abbrev WellFormed (p : Program) (i : Instr) : Prop := i.failedCheck? p = none

end Instr

namespace Program

/-- Every label is defined once, at a statement of the program or at its end (the first half of LBL; log entry 8). -/
def labelsOk (p : Program) : Bool :=
  decide (p.labels.map Prod.fst).Nodup && p.labels.all (fun e => e.2 ≤ p.stmts.length)

/-- The first check a program fails: its labels, then its statements from the first on. -/
def failedCheck? (p : Program) : Option Check :=
  if !p.labelsOk then some .lbl
  else if !p.stmts.all Instr.isStatement then some .stmt
  else p.stmts.findSome? (fun i => i.failedCheck? p)

/-- A program is well formed only if every named check passes (R170). -/
abbrev WellFormed (p : Program) : Prop := p.failedCheck? = none

/-- index(L): the statement a label stands in front of (R177). -/
def index? (p : Program) (l : Label) : Option Nat :=
  (p.labels.find? (fun e => e.1 == l)).map Prod.snd

end Program

end Sys2Proof
end

