-- ==== Sys2Proof/Machine/State.lean ====
section
/-! DEFINITION. The state of the machine as plain data: the harness state (10_state.md R25), the program text it runs
(48_harness.md R170), the frames in transit at the block's interface (30_encoding.md R70), and the pending draws
(00_scope.md R11). The block itself holds no state (R20 to R24). -/

namespace Sys2Proof.Machine

/-- What an UnwrittenVar fault names: a variable, or the OK flag (60_exceptions.md R205, R206). -/
inductive VarRef where
  | x (i : Nat)
  | ok
  deriving DecidableEq, Repr

/-- The harness faults (R205). A fault is not an outcome of the step: it is entered as a next state, `mark` set to
`fault(reason)` and nothing else changed (R210). -/
inductive FaultReason where
  /-- UnwrittenVar(i): raised by WR, MOV, OP, BEQZ, BNEZ, BOK and BNOK (R206). -/
  | unwrittenVar (v : VarRef)
  /-- BadAddress(a, n): raised by RD and WR (R207). -/
  | badAddress (a n : Nat)
  /-- CmdError(m, st): raised by OP (R208). -/
  | cmdError (m : Cmd) (st : Byte)
  /-- NoHalt(pc): raised by the step when pc is past the last statement (R209). -/
  | noHalt (pc : Nat)
  deriving DecidableEq, Repr

/-- The run mark (R25): `halted` and `fault` are permanent (R210). -/
inductive Mark where
  | running
  | halted
  | fault (r : FaultReason)
  deriving DecidableEq, Repr

/-- The unconstrained inputs of the steps to come (R11), the MODEL's own field (log entry 1). Each queue holds the
next draws of one parameter of R8, first to be used first; past its end the opaque constant of Config at `count`
is drawn, and `count` advances with every draw. -/
structure Draws where
  busFail    : List BusDraw
  bcdEncOor  : List Byte
  dowOod     : List Byte
  deviceStep : List (List DeviceStep)
  count      : Nat
  deriving DecidableEq, Repr

/-- No draw is chosen beforehand: every one is a free value. -/
def Draws.fresh : Draws := ⟨[], [], [], [], 0⟩

/-- The machine's state. -/
structure State where
  /-- x0..x31, each unwritten or an 8-bit value (R25) -/
  x         : Vector (Option Byte) Config.varCount
  /-- index of the next statement (R25) -/
  pc        : Nat
  /-- OK, the bus-status flag: unwritten, or whether the last transaction succeeded (R25) -/
  ok        : Option Bool
  /-- RI, the device register image (R26) -/
  ri        : Memory
  /-- running, halted or fault(reason) (R25) -/
  mark      : Mark
  /-- the harness program; no statement writes it (R57, R170) -/
  program   : Program
  /-- command-frame bytes delivered to the block and not yet taken (R70, R71; log entry 4) -/
  input     : List Byte
  /-- response frames the block has given, oldest first (R70; log entry 4) -/
  responses : List (List Byte)
  /-- pending draws (R11; log entry 1) -/
  draws     : Draws
  deriving DecidableEq, Repr

/-- The start of a run (10_state.md R34), with no frame pending and no program loaded (log entries 4 and 7). -/
def State.reset : State where
  x         := Vector.replicate Config.varCount none
  pc        := 0
  ok        := none
  ri        := Memory.initial
  mark      := .running
  program   := Program.empty
  input     := []
  responses := []
  draws     := Draws.fresh

/-- Why the machine has no next state: the run has ended and no frame is pending (R171: "A state with mark = halted
or fault has no harness step"). Raised by the step, never by an instruction. Safe: the spec gives no step either. -/
inductive Fault where
  /-- The run ended by HALT (R183). Raised by the step. Safe. -/
  | runHalted
  /-- The run ended in a harness fault, which is permanent (R210). Raised by the step. Safe. -/
  | runFaulted (r : FaultReason)
  deriving DecidableEq, Repr

/-- Why an instruction or a program has no meaning. -/
inductive Refusal where
  /-- The instruction has no meaning in this model yet. Raised by exec's refused arms alone. Safe. -/
  | notModelled (mnemonic : String)
  /-- The program, or the statement, fails a check of R170: "A program that fails a check is refused as a whole, and
  no run of it exists." Raised by the step for the program, and by a statement's meaning for itself. Safe. -/
  | illFormed (c : Check)
  deriving DecidableEq, Repr

/-- What a step or an instruction answers. -/
abbrev Result := Host.Outcome State Fault Refusal

end Sys2Proof.Machine
end

