-- ==== Sys2Proof/Machine/Ops.lean ====
section
/-! DEFINITION. The named operations over state: draws (00_scope.md R11), the register image (20_memory.md R44 to R46),
the variables (10_state.md R25), the program counter, fault entry (60_exceptions.md R210) and the refusal of an
ill-formed statement (48_harness.md R170). There is no return from a fault: "The fault is permanent" (R210, R215). -/

namespace Sys2Proof.Machine

/-! ## Draws (R11): each answers the drawn value and what remains -/

namespace Draws

/-- draw BUS_FAIL (R46). -/
def nextBus (d : Draws) : BusDraw × Draws :=
  match d.busFail with
  | b :: bs => (b, { d with busFail := bs, count := d.count + 1 })
  | []      => (Config.busFail d.count, { d with count := d.count + 1 })

/-- draw BCD_ENC_OOR (R91). -/
def nextOor (d : Draws) : Byte × Draws :=
  match d.bcdEncOor with
  | b :: bs => (b, { d with bcdEncOor := bs, count := d.count + 1 })
  | []      => (Config.bcdEncOor d.count, { d with count := d.count + 1 })

/-- draw DOW_OOD (R101). -/
def nextOod (d : Draws) : Byte × Draws :=
  match d.dowOod with
  | b :: bs => (b, { d with dowOod := bs, count := d.count + 1 })
  | []      => (Config.dowOod d.count, { d with count := d.count + 1 })

/-- draw DEVICE_STEP: the device's steps before one statement (R52, R171). -/
def nextDevice (d : Draws) : List DeviceStep × Draws :=
  match d.deviceStep with
  | b :: bs => (b, { d with deviceStep := bs, count := d.count + 1 })
  | []      => (Config.deviceSteps d.count, { d with count := d.count + 1 })

end Draws

/-! ## The register image -/

namespace Memory

/-- RI[a]. A listed address reads as its byte; an address the image does not list reads as the free value RI_INIT
(never reached by an admitted access to a well-formed image; log entry 2). -/
def read : Memory → Nat → Byte
  | [], a          => Config.riInit a
  | (b, v) :: m, a => if a = b then v else read m a

/-- RI[a] <- v, keeping the addresses in rising order. -/
def write : Memory → Nat → Byte → Memory
  | [], a, v          => [(a, v)]
  | (b, w) :: m, a, v =>
    if a < b then (a, v) :: (b, w) :: m
    else if a = b then (a, v) :: m
    else (b, w) :: write m a v

/-- MemRead(a, n): the bytes at a, a+1, .., a+n-1 in increasing address order (R44). -/
def readN (m : Memory) (a : Nat) : Nat → List Byte
  | 0     => []
  | n + 1 => m.read a :: m.readN (a + 1) n

/-- MemWrite(a, n, v): byte k of v to address a+k, every byte exactly as given (R45). -/
def writeN (m : Memory) (a : Nat) : List Byte → Memory
  | []      => m
  | v :: vs => (m.write a v).writeN (a + 1) vs

/-- A failed write: byte k holds the written value where bit k of `reached` is set, and its old value otherwise
(R46). -/
def writeSome (m : Memory) (a : Nat) (reached : BitVec 8) (k : Nat) : List Byte → Memory
  | []      => m
  | v :: vs => (if reached.getLsbD k then m.write a v else m).writeSome (a + 1) reached (k + 1) vs

end Memory

/-! ## Variables, program counter and mark -/

namespace State

/-- x[i], or none while it is unwritten (R25). -/
def getVar (s : State) (i : Nat) : Option Byte := (s.x[i]?).join

/-- x[i] <- v. -/
def setVar (s : State) (i : Nat) (v : Byte) : State := { s with x := s.x.setIfInBounds i (some v) }

/-- x[d+k] <- v[k] for every k, in order. -/
def setVars (s : State) (d : Nat) : List Byte → State
  | []      => s
  | v :: vs => (s.setVar d v).setVars (d + 1) vs

/-- The values of the listed variables in order, or the first of them that is unwritten (R173, R176, R211). -/
def getVars (s : State) : List Nat → Except Nat (List Byte)
  | []      => .ok []
  | i :: is =>
    match s.getVar i with
    | none   => .error i
    | some v =>
      match s.getVars is with
      | .error j => .error j
      | .ok vs   => .ok (v :: vs)

/-- pc <- pc + 1 (R171). -/
def advance (s : State) : State := { s with pc := s.pc + 1 }

/-- pc <- target (R11). -/
def jumpTo (s : State) (target : Nat) : State := { s with pc := target }

/-- mark <- halted (R182). -/
def halt (s : State) : State := { s with mark := .halted }

/-- RI <- m. -/
def setRi (s : State) (m : Memory) : State := { s with ri := m }

/-- What remains of the draws. -/
def setDraws (s : State) (d : Draws) : State := { s with draws := d }

/-- The frame bytes that remain. -/
def setInput (s : State) (bs : List Byte) : State := { s with input := bs }

/-- One more response frame (R70). -/
def respond (s : State) (frame : List Byte) : State := { s with responses := s.responses ++ [frame] }

/-- FAULT ENTRY, the one shared operation (R210): mark <- fault(reason), and nothing else changes. No state is saved,
no handler runs and control goes nowhere. -/
def raise (s : State) (r : FaultReason) : State := { s with mark := .fault r }

end State

/-- A statement that fails a check of R170 in the loaded program is refused; otherwise it runs. -/
def checked (i : Instr) (s : State) (run : Result) : Result :=
  match i.failedCheck? s.program with
  | some c => .refused (.illFormed c)
  | none   => run

/-- `pc <- index(L)` (R177 to R181). A label the program does not define is refused (R170 LBL); after `checked`
there is none. -/
def branchTo (l : Label) (s : State) : Result :=
  match s.program.index? l with
  | some t => .next (s.jumpTo t)
  | none   => .refused (.illFormed .lbl)

end Sys2Proof.Machine
end

