-- ==== Sys2Proof/Machine/Operands.lean ====
section
/-! DEFINITION. Operand and payload assembly (30_encoding.md R72), response frames and their status byte
(30_encoding.md R70, 60_exceptions.md R200), and how a command's response reaches the block's interface. -/

namespace Sys2Proof.Machine

/-- A value of the block as a payload byte. -/
def toByte (n : Nat) : Byte := BitVec.ofNat 8 n

/-- A 16-bit operand from two consecutive bytes, most significant first (R72). -/
def half (hi lo : Byte) : Half := hi ++ lo

/-- The most significant byte of a 16-bit result, which comes first (R72). -/
def hiByte (v : Half) : Byte := v.extractLsb' 8 8

/-- The least significant byte of a 16-bit result, which comes second (R72). -/
def loByte (v : Half) : Byte := v.extractLsb' 0 8

/-- Bit i of a byte (R9). -/
def bit (b : Byte) (i : Nat) : Bool := b.getLsbD i

/-- A one-bit value placed at bit i of a byte. -/
def place (v : Bool) (i : Nat) : Byte := if v then 1#8 <<< i else 0#8

/-- A response (R70, R200): the payload, or one of the two errors. -/
inductive Response where
  | ok (payload : List Byte)
  | illegalOpcode
  | badTarget
  deriving DecidableEq, Repr

/-- The status byte st (R200). -/
def Response.status : Response → Byte
  | .ok _          => 0x00#8
  | .illegalOpcode => 0x01#8
  | .badTarget     => 0x02#8

/-- The response frame: st, then the payload exactly when st is OK (R70). -/
def Response.frame : Response → List Byte
  | .ok payload    => 0x00#8 :: payload
  | .illegalOpcode => [0x01#8]
  | .badTarget     => [0x02#8]

/-- The block gives one response to one command frame and changes nothing else (R20, R70); what the command drew
is used up. -/
def answer (r : Response × Draws) (s : State) : Result := .next ((s.respond r.1.frame).setDraws r.2)

end Sys2Proof.Machine
end

