-- ==== Sys2Proof/Machine/Flags.lean ====
section
/-! DEFINITION. Every flag the spec computes: the harness's OK flag (20_memory.md R46), the alarm and oscillator-stop
flags of a status register value (10_state.md R31, 44_alarm.md R128 to R130), and the enable bits of a control register
value (10_state.md R30, 44_alarm.md R126). -/

namespace Sys2Proof.Machine

/-- OK <- b, written by every RD and WR (R25, R46). -/
def State.setOk (s : State) (b : Bool) : State := { s with ok := some b }

/-- A1F and A2F, bits 0 and 1 of a status value (R128). -/
def alarmFlags (st : Byte) : Byte := st &&& 0x03#8

/-- OSF, bit 7 of a status value, as 0 or 1 (R129). -/
def oscStopFlag (st : Byte) : Byte := place (bit st 7) 0

/-- A status value with the bits of m cleared and every other bit as it was (R130). -/
def clearFlags (st m : Byte) : Byte := st &&& ~~~m

/-- A control value with one alarm's interrupt enable and the global interrupt-output bit set; no bit is cleared
(R126). -/
def enableAlarm (ctrl : Byte) (enableBit : Nat) : Byte := ctrl ||| place true enableBit ||| place true Config.ctrlIntcnBit

end Sys2Proof.Machine
end

