-- ==== Sys2Proof/Machine/Bcd.lean ====
section
/-! DEFINITION. The BCD codec (41_bcd.md): the functions bcd and unbcd, the field byte fb that the mappers share
(44_alarm.md R122), and the commands BCD.ENC and BCD.DEC. -/

namespace Sys2Proof.Machine

/-- bcd(n), for n in 0..99: high nibble n/10, low nibble n mod 10 (R90). -/
def bcd (n : Nat) : Byte := (toByte (n / 10) <<< 4) ||| toByte (n % 10)

/-- unbcd(b), for every byte: high nibble * 10 + low nibble, 0..165 (R92). -/
def unbcd (b : Byte) : Nat := (b.extractLsb' 4 4).toNat * 10 + (b.extractLsb' 0 4).toNat

/-- A byte is valid BCD when both of its nibbles are at most 9 (R13). -/
def validBcd (b : Byte) : Bool := (b.extractLsb' 4 4).toNat ≤ 9 && (b.extractLsb' 0 4).toNat ≤ 9

/-- fb(v): bcd(v) for v at most 99, otherwise a draw BCD_ENC_OOR (R91, R122). -/
def fb (v : Byte) (d : Draws) : Byte × Draws := if v.toNat ≤ 99 then (bcd v.toNat, d) else d.nextOor

/-- BCD.ENC (R91). -/
def bcdEncResponse (n : Byte) (d : Draws) : Response × Draws :=
  let r := fb n d
  (.ok [r.1], r.2)

/-- BCD.DEC (R93). -/
def bcdDecResponse (b : Byte) (d : Draws) : Response × Draws := (.ok [toByte (unbcd b)], d)

/-- BCD.ENC as a command frame. -/
def execBcdEnc (n : Byte) (s : State) : Result := answer (bcdEncResponse n s.draws) s

/-- BCD.DEC as a command frame. -/
def execBcdDec (b : Byte) (s : State) : Result := answer (bcdDecResponse b s.draws) s

end Sys2Proof.Machine
end

