-- ==== Sys2Proof/Machine/TimeBlock.lean ====
section
/-! DEFINITION. The time-register-block mapper (45_time_block.md): the shared hour decoder and the commands TIME.ENC and
TIME.DEC. -/

namespace Sys2Proof.Machine

/-- hourdec(b), for every byte: bit 6 selects 12-hour mode, where bit 5 set adds 0 and bit 5 clear adds 12, the
source's inverted convention; bit 7 is never read (R151). -/
def hourdec (b : Byte) : Nat :=
  if bit b 6 then unbcd (b &&& 0x1F#8) + (if bit b 5 then 0 else 12)
  else unbcd (b &&& 0x3F#8)

/-- TIME.ENC (R150): a day of week of 0 is written as 1, the year offset is reduced mod 100, and the century bit is
never set for a month below 80. -/
def timeEncResponse (sec min hour dow day month yoff : Byte) (d : Draws) : Response × Draws :=
  let t0 := fb sec d
  let t1 := fb min t0.2
  let t2 := fb hour t1.2
  let t3 := fb (if dow = 0#8 then 1#8 else dow) t2.2
  let t4 := fb day t3.2
  let t5 := fb month t4.2
  (.ok [t0.1, t1.1, t2.1, t3.1, t4.1, t5.1, bcd (yoff.toNat % 100)], t5.2)

/-- TIME.DEC's year offset: the century bit adds 100, 0..265 (R152). -/
def yearOffset (t5 t6 : Byte) : Nat := (if bit t5 7 then 100 else 0) + unbcd t6

/-- TIME.DEC (R152). -/
def timeDecResponse (t0 t1 t2 t3 t4 t5 t6 : Byte) (d : Draws) : Response × Draws :=
  let y16 : Half := BitVec.ofNat 16 (yearOffset t5 t6)
  (.ok [toByte (unbcd t0), toByte (unbcd t1), toByte (hourdec t2), toByte (unbcd t3), toByte (unbcd t4),
        toByte (unbcd (t5 &&& 0x7F#8)), hiByte y16, loByte y16], d)

/-- TIME.ENC as a command frame. -/
def execTimeEnc (sec min hour dow day month yoff : Byte) (s : State) : Result :=
  answer (timeEncResponse sec min hour dow day month yoff s.draws) s

/-- TIME.DEC as a command frame. -/
def execTimeDec (t0 t1 t2 t3 t4 t5 t6 : Byte) (s : State) : Result :=
  answer (timeDecResponse t0 t1 t2 t3 t4 t5 t6 s.draws) s

end Sys2Proof.Machine
end

