-- ==== Sys2Proof/Machine/Alarm.lean ====
section
/-! DEFINITION. The alarm mode decoder and alarm-register mapper (44_alarm.md): target resolution, field bytes, and the
commands ALM.MAP, ALM.DEC, ALM.CTL, STAT.ALM, STAT.OSF and STAT.CLR. The bit positions are the parameters of
00_scope.md R8. -/

namespace Sys2Proof.Machine

/-- The alarm a mode selects (R13). -/
inductive AlarmTarget where
  | a1 | a2
  deriving DecidableEq, Repr

/-- The target selector T, bits 1:0 of a mode code (R120). -/
def modeTarget (mode : Byte) : Byte := mode &&& 0x03#8

/-- The effective mode and its target (R121): `00` names no alarm, a custom mode (`11`) collapses to Alarm 2 by
clearing bit 0. -/
def resolveMode (mode : Byte) : Option (Byte × AlarmTarget) :=
  if modeTarget mode = 0x00#8 then none
  else
    let eff := if modeTarget mode = 0x03#8 then mode &&& 0xFE#8 else mode
    some (eff, if modeTarget eff = 0x01#8 then .a1 else .a2)

/-- fieldbyte(v, M) (R122). -/
def fieldbyte (v : Byte) (M : Bool) (d : Draws) : Byte × Draws :=
  let r := fb v d
  (r.1 ||| place M Config.almMaskBit, r.2)

/-- daybyte(v, M, DY) (R122). -/
def daybyte (v : Byte) (M DY : Bool) (d : Draws) : Byte × Draws :=
  let r := fb v d
  (r.1 ||| place M Config.almMaskBit ||| place DY Config.almDydtBit, r.2)

/-- The day value: day of week when DY = 1, day of month when DY = 0 (R123). -/
def dayValue (DY : Bool) (dow day : Byte) : Byte := if DY then dow else day

/-- The start register and byte count of an alarm's block (R124). -/
def alarmBlock : AlarmTarget → Byte × Byte
  | .a1 => (0x07#8, 0x04#8)
  | .a2 => (0x0B#8, 0x03#8)

/-- ALM.MAP (R125). -/
def almMapResponse (mode sec min hour dow day : Byte) (d : Draws) : Response × Draws :=
  match resolveMode mode with
  | none => (.badTarget, d)
  | some (eff, target) =>
    let DY := bit eff Config.modeDyBit
    let dv := dayValue DY dow day
    let blk := alarmBlock target
    match target with
    | .a1 =>
      let r0 := fieldbyte sec (bit eff Config.modeM1Bit) d
      let r1 := fieldbyte min (bit eff Config.modeM2Bit) r0.2
      let r2 := fieldbyte hour (bit eff Config.modeM3Bit) r1.2
      let r3 := daybyte dv (bit eff Config.modeM4Bit) DY r2.2
      (.ok [eff, 0x01#8, blk.1, blk.2, r0.1, r1.1, r2.1, r3.1], r3.2)
    | .a2 =>
      let r0 := fieldbyte min (bit eff Config.modeM2Bit) d
      let r1 := fieldbyte hour (bit eff Config.modeM3Bit) r0.2
      let r2 := daybyte dv (bit eff Config.modeM4Bit) DY r1.2
      (.ok [eff, 0x02#8, blk.1, blk.2, r0.1, r1.1, r2.1, 0x00#8], r2.2)

/-- The value part of an alarm register byte: the mask bit removed (`b & 0x7F`, R127). -/
def alarmValue (b : Byte) : Byte := b &&& ~~~(place true Config.almMaskBit)

/-- The value part of an alarm day byte: the mask and DY bits removed (`b & 0x3F`, R127). -/
def alarmDayValue (b : Byte) : Byte := alarmValue b &&& ~~~(place true Config.almDydtBit)

/-- The mode code that ALM.DEC reconstructs, bit 2 = 0 (R127). -/
def modeOf (M1 M2 M3 M4 DY : Bool) (T : Byte) : Byte :=
  place M1 Config.modeM1Bit ||| place M2 Config.modeM2Bit ||| place M3 Config.modeM3Bit |||
    place M4 Config.modeM4Bit ||| place DY Config.modeDyBit ||| T

/-- The payload of ALM.DEC from the mask M1, the selector T, the seconds, and the minutes, hour and day bytes
(R127). -/
def almDecPayload (M1 : Bool) (T : Byte) (sec : Nat) (bm bh bd : Byte) : List Byte :=
  [modeOf M1 (bit bm Config.almMaskBit) (bit bh Config.almMaskBit) (bit bd Config.almMaskBit) (bit bd Config.almDydtBit) T,
   toByte sec, toByte (unbcd (alarmValue bm)), toByte (hourdec bh), toByte (unbcd (alarmDayValue bd))]

/-- ALM.DEC (R127). -/
def almDecResponse (sel r0 r1 r2 r3 : Byte) (d : Draws) : Response × Draws :=
  if sel = 0x01#8 then
    (.ok (almDecPayload (bit r0 Config.almMaskBit) 0x01#8 (unbcd (alarmValue r0)) r1 r2 r3), d)
  else if sel = 0x02#8 then
    (.ok (almDecPayload false 0x02#8 0 r0 r1 r2), d)
  else (.badTarget, d)

/-- The control-register bit that enables an alarm's interrupt (R126). -/
def enableBit : AlarmTarget → Nat
  | .a1 => Config.ctrlA1ieBit
  | .a2 => Config.ctrlA2ieBit

/-- ALM.CTL (R126). -/
def almCtlResponse (mode ctrl : Byte) (d : Draws) : Response × Draws :=
  match resolveMode mode with
  | none => (.badTarget, d)
  | some (_, target) => (.ok [enableAlarm ctrl (enableBit target)], d)

/-- STAT.ALM (R128). -/
def statAlmResponse (st : Byte) (d : Draws) : Response × Draws := (.ok [alarmFlags st], d)

/-- STAT.OSF (R129). -/
def statOsfResponse (st : Byte) (d : Draws) : Response × Draws := (.ok [oscStopFlag st], d)

/-- STAT.CLR (R130). -/
def statClrResponse (st m : Byte) (d : Draws) : Response × Draws := (.ok [clearFlags st m], d)

/-- ALM.MAP as a command frame. -/
def execAlmMap (mode sec min hour dow day : Byte) (s : State) : Result :=
  answer (almMapResponse mode sec min hour dow day s.draws) s

/-- ALM.DEC as a command frame. -/
def execAlmDec (sel r0 r1 r2 r3 : Byte) (s : State) : Result := answer (almDecResponse sel r0 r1 r2 r3 s.draws) s

/-- ALM.CTL as a command frame. -/
def execAlmCtl (mode ctrl : Byte) (s : State) : Result := answer (almCtlResponse mode ctrl s.draws) s

/-- STAT.ALM as a command frame. -/
def execStatAlm (st : Byte) (s : State) : Result := answer (statAlmResponse st s.draws) s

/-- STAT.OSF as a command frame. -/
def execStatOsf (st : Byte) (s : State) : Result := answer (statOsfResponse st s.draws) s

/-- STAT.CLR as a command frame. -/
def execStatClr (st m : Byte) (s : State) : Result := answer (statClrResponse st m s.draws) s

end Sys2Proof.Machine
end

