-- ==== Sys2Proof/Machine/Dow.lean ====
section
/-! DEFINITION. The day-of-week engine (42_dow.md): the congruence over the integers, its domain, and the command DOW. -/

namespace Sys2Proof.Machine

/-- dow(Y, M, D), the congruence over mathematical integers (R100). The divisors are positive, so `/` and `%` are
floor division and its remainder. -/
def dow (Y M D : Int) : Int :=
  let a := (14 - M) / 12
  let y := Y - a
  let m := M + 12 * a - 2
  let d := (D + y + y / 4 - y / 100 + y / 400 + (31 * m) / 12) % 7
  if d = 0 then 7 else d

/-- The same congruence with truncating division and remainder: R102 says it agrees with `dow` on DOWDOM. -/
def dowTruncating (Y M D : Int) : Int :=
  let a := Int.tdiv (14 - M) 12
  let y := Y - a
  let m := M + 12 * a - 2
  let d := Int.tmod (D + y + Int.tdiv y 4 - Int.tdiv y 100 + Int.tdiv y 400 + Int.tdiv (31 * m) 12) 7
  if d = 0 then 7 else d

/-- DOWDOM: every dividend is at least 0 (R102). -/
abbrev InDowDom (Y M D : Nat) : Prop := Y ≤ 65535 ∧ M ≤ 14 ∧ D ≤ 255 ∧ ¬ (Y = 0 ∧ M ≤ 2)

/-- DOW (R101): the formula on DOWDOM, a draw DOW_OOD outside it. -/
def dowResponse (yearHi yearLo month day : Byte) (d : Draws) : Response × Draws :=
  let Y := (half yearHi yearLo).toNat
  if InDowDom Y month.toNat day.toNat then
    (.ok [BitVec.ofInt 8 (dow Y month.toNat day.toNat)], d)
  else
    let r := d.nextOod
    (.ok [r.1], r.2)

/-- DOW as a command frame. -/
def execDow (yearHi yearLo month day : Byte) (s : State) : Result := answer (dowResponse yearHi yearLo month day s.draws) s

end Sys2Proof.Machine
end

