-- ==== Sys2Proof/Machine/Temperature.lean ====
section
/-! DEFINITION. The temperature decoder (43_temperature.md): the quarter-degree count and the command TEMP.DEC. -/

namespace Sys2Proof.Machine

/-- Q of a pair, as 16-bit two's complement: (sext_16(msb) << 2) | zext_16(lsb >> 6) (R110). -/
def quarterDegrees (msb lsb : Byte) : Half := (msb.signExtend 16 <<< 2) ||| (lsb >>> 6).zeroExtend 16

/-- TEMP.DEC (R111). -/
def tempDecResponse (msb lsb : Byte) (d : Draws) : Response × Draws :=
  let q := quarterDegrees msb lsb
  (.ok [hiByte q, loByte q], d)

/-- TEMP.DEC as a command frame. -/
def execTempDec (msb lsb : Byte) (s : State) : Result := answer (tempDecResponse msb lsb s.draws) s

end Sys2Proof.Machine
end

