-- ==== Sys2Proof/Machine/Block.lean ====
section
/-! DEFINITION. The block as a whole (10_state.md R20, 30_encoding.md R70, R71): from a command frame to a response frame.
It reads no state but the pending draws. -/

namespace Sys2Proof.Machine

/-- The response to a decoded command; a harness statement is no command of the block (R78). -/
def respondTo (i : Instr) (d : Draws) : Option (Response × Draws) :=
  match i with
  | .bcdEnc n                     => some (bcdEncResponse n d)
  | .bcdDec b                     => some (bcdDecResponse b d)
  | .dow yh yl m dd               => some (dowResponse yh yl m dd d)
  | .tempDec msb lsb              => some (tempDecResponse msb lsb d)
  | .almMap mode se mi h dw dd    => some (almMapResponse mode se mi h dw dd d)
  | .almDec sel r0 r1 r2 r3       => some (almDecResponse sel r0 r1 r2 r3 d)
  | .almCtl mode ctrl             => some (almCtlResponse mode ctrl d)
  | .statAlm st                   => some (statAlmResponse st d)
  | .statOsf st                   => some (statOsfResponse st d)
  | .statClr st m                 => some (statClrResponse st m d)
  | .timeEnc se mi h dw dd mo yo  => some (timeEncResponse se mi h dw dd mo yo d)
  | .timeDec t0 t1 t2 t3 t4 t5 t6 => some (timeDecResponse t0 t1 t2 t3 t4 t5 t6 d)
  | .rd _ _ _ | .wr _ _ _ | .mov _ _ | .movi _ _ | .op _ _ _ => none
  | .beqz _ _ | .bnez _ _ | .bok _ | .bnok _ | .jmp _ | .halt => none

/-- Block(frame) (R176): the response to a command frame (R71). A frame that lacks operand bytes is no input and has
no response (R71). -/
def blockResponse (frame : List Byte) (d : Draws) : Option (Response × Draws) :=
  match decode frame with
  | .ok (i, _)                 => respondTo i d
  | .error (.illegalOpcode _)  => some (.illegalOpcode, d)
  | .error .incomplete         => none

end Sys2Proof.Machine
end

