-- ==== Sys2Proof/Machine/Harness.lean ====
section
/-! DEFINITION. The harness statements (48_harness.md R172 to R182). Every statement makes all its checks before any of
its effects, so a fault is precise (60_exceptions.md R210). A statement that fails a check of R170 is refused. -/

namespace Sys2Proof.Machine

/-! ## Bus statements -/

/-- RD xd, addr, n (R172). A failed read changes no variable (R46). -/
def execRd (xd addr n : Nat) (s : State) : Result :=
  checked (.rd xd addr n) s <|
    if admitted addr n then
      let b := s.draws.nextBus
      if b.1.fail then
        .next (((s.setOk false).setDraws b.2).advance)
      else
        .next ((((s.setVars xd (s.ri.readN addr n)).setOk true).setDraws b.2).advance)
    else .next (s.raise (.badAddress addr n))

/-- WR addr, xs, n (R173). In a failed write each byte holds its old or its new value, as drawn (R46). -/
def execWr (addr xs n : Nat) (s : State) : Result :=
  checked (.wr addr xs n) s <|
    if admitted addr n then
      match s.getVars (List.range' xs n) with
      | .error i => .next (s.raise (.unwrittenVar (.x i)))
      | .ok v =>
        let b := s.draws.nextBus
        if b.1.fail then
          .next ((((s.setRi (s.ri.writeSome addr b.1.reached 0 v)).setOk false).setDraws b.2).advance)
        else
          .next ((((s.setRi (s.ri.writeN addr v)).setOk true).setDraws b.2).advance)
    else .next (s.raise (.badAddress addr n))

/-! ## Variable statements -/

/-- MOV xd, xs (R174). -/
def execMov (xd xs : Nat) (s : State) : Result :=
  checked (.mov xd xs) s <|
    match s.getVar xs with
    | none   => .next (s.raise (.unwrittenVar (.x xs)))
    | some v => .next ((s.setVar xd v).advance)

/-- MOVI xd, imm8 (R175). -/
def execMovi (xd imm : Nat) (s : State) : Result :=
  checked (.movi xd imm) s <| .next ((s.setVar xd (toByte imm)).advance)

/-- OP m, xd, xs0, .. (R176): every source is read before any destination is written; an error status is the fault
CmdError (R208). -/
def execOp (m : Cmd) (xd : Nat) (xs : List Nat) (s : State) : Result :=
  checked (.op m xd xs) s <|
    match s.getVars xs with
    | .error i => .next (s.raise (.unwrittenVar (.x i)))
    | .ok v =>
      match blockResponse (m.opc :: v) s.draws with
      | none                 => .refused (.illFormed .arity)
      | some (.ok payload, d) => .next (((s.setVars xd payload).setDraws d).advance)
      | some (.illegalOpcode, _) => .next (s.raise (.cmdError m Response.illegalOpcode.status))
      | some (.badTarget, _)     => .next (s.raise (.cmdError m Response.badTarget.status))

/-! ## Control transfer -/

/-- BEQZ xs, label (R177). -/
def execBeqz (xs : Nat) (label : Label) (s : State) : Result :=
  checked (.beqz xs label) s <|
    match s.getVar xs with
    | none   => .next (s.raise (.unwrittenVar (.x xs)))
    | some v => if v = 0#8 then branchTo label s else .next s.advance

/-- BNEZ xs, label (R178). -/
def execBnez (xs : Nat) (label : Label) (s : State) : Result :=
  checked (.bnez xs label) s <|
    match s.getVar xs with
    | none   => .next (s.raise (.unwrittenVar (.x xs)))
    | some v => if v = 0#8 then .next s.advance else branchTo label s

/-- BOK label (R179). -/
def execBok (label : Label) (s : State) : Result :=
  checked (.bok label) s <|
    match s.ok with
    | none       => .next (s.raise (.unwrittenVar .ok))
    | some true  => branchTo label s
    | some false => .next s.advance

/-- BNOK label (R180). -/
def execBnok (label : Label) (s : State) : Result :=
  checked (.bnok label) s <|
    match s.ok with
    | none       => .next (s.raise (.unwrittenVar .ok))
    | some true  => .next s.advance
    | some false => branchTo label s

/-- JMP label (R181). -/
def execJmp (label : Label) (s : State) : Result := checked (.jmp label) s <| branchTo label s

/-- HALT (R182): mark <- halted, pc unchanged. -/
def execHalt (s : State) : Result := checked .halt s <| .next s.halt

end Sys2Proof.Machine
end

