-- ==== Sys2Proof/Machine/Dispatch.lean ====
section
/-! DEFINITION. exec: one arm for each constructor of Instr, each one call of its meaning. -/

namespace Sys2Proof.Machine

def exec (i : Instr) (s : State) : Host.Outcome State Fault Refusal :=
  match i with
  -- block commands (30_encoding.md R73)
  | .bcdEnc n => Sys2Proof.Machine.execBcdEnc n s
  | .bcdDec b => Sys2Proof.Machine.execBcdDec b s
  | .dow yearHi yearLo month day => Sys2Proof.Machine.execDow yearHi yearLo month day s
  | .tempDec msb lsb => Sys2Proof.Machine.execTempDec msb lsb s
  | .almMap mode sec min hour dow day => Sys2Proof.Machine.execAlmMap mode sec min hour dow day s
  | .almDec sel r0 r1 r2 r3 => Sys2Proof.Machine.execAlmDec sel r0 r1 r2 r3 s
  | .almCtl mode ctrl => Sys2Proof.Machine.execAlmCtl mode ctrl s
  | .statAlm st => Sys2Proof.Machine.execStatAlm st s
  | .statOsf st => Sys2Proof.Machine.execStatOsf st s
  | .statClr st m => Sys2Proof.Machine.execStatClr st m s
  | .timeEnc sec min hour dow day month yoff => Sys2Proof.Machine.execTimeEnc sec min hour dow day month yoff s
  | .timeDec t0 t1 t2 t3 t4 t5 t6 => Sys2Proof.Machine.execTimeDec t0 t1 t2 t3 t4 t5 t6 s
  -- harness statements (30_encoding.md R78)
  | .rd xd addr n => Sys2Proof.Machine.execRd xd addr n s
  | .wr addr xs n => Sys2Proof.Machine.execWr addr xs n s
  | .mov xd xs => Sys2Proof.Machine.execMov xd xs s
  | .movi xd imm => Sys2Proof.Machine.execMovi xd imm s
  | .op m xd xs => Sys2Proof.Machine.execOp m xd xs s
  | .beqz xs label => Sys2Proof.Machine.execBeqz xs label s
  | .bnez xs label => Sys2Proof.Machine.execBnez xs label s
  | .bok label => Sys2Proof.Machine.execBok label s
  | .bnok label => Sys2Proof.Machine.execBnok label s
  | .jmp label => Sys2Proof.Machine.execJmp label s
  | .halt => Sys2Proof.Machine.execHalt s

end Sys2Proof.Machine
end

