-- ==== Sys2Proof/Machine/Device.lean ====
section
/-! DEFINITION. The device agent (20_memory.md R52): what one device step does to the register image, and the device's
turn before a harness statement (48_harness.md R171). -/

namespace Sys2Proof.Machine

/-- The status bits the device may raise, and never clears: A1F, A2F and OSF (R52). -/
def deviceRaises : Byte := 0x83#8

/-- The status bits the device may set to any values: bits 2..6 (R52). -/
def deviceFree : Byte := 0x7C#8

/-- The status register after a device step: flags go from 0 to 1 only, bits 2..6 take any values (R52). -/
def deviceStatus (raise : Byte) (other : Option Byte) (st : Byte) : Byte :=
  let st := st ||| (raise &&& deviceRaises)
  match other with
  | none   => st
  | some v => (st &&& ~~~deviceFree) ||| (v &&& deviceFree)

namespace Memory

/-- Write the bytes that are given, from address a up, and leave the others alone. -/
def writeGiven (m : Memory) (a : Nat) : List (Option Byte) → Memory
  | []           => m
  | none :: vs   => m.writeGiven (a + 1) vs
  | some v :: vs => (m.write a v).writeGiven (a + 1) vs

/-- One device step: any time bytes, the status register within R52, any temperature bytes; 0x07..0x0E never. -/
def deviceStep (m : Memory) (d : DeviceStep) : Memory :=
  let m := m.writeGiven timeAddr d.time.toList
  let m := m.write statusAddr (deviceStatus d.raise d.other (m.read statusAddr))
  m.writeGiven tempAddr d.temp.toList

/-- Several device steps, in order. -/
def deviceSteps (m : Memory) (ds : List DeviceStep) : Memory := ds.foldl deviceStep m

end Memory

/-- The device agent takes the steps it draws (R52, R171). -/
def deviceTurn (s : State) : State :=
  let r := s.draws.nextDevice
  (s.setRi (s.ri.deviceSteps r.1)).setDraws r.2

end Sys2Proof.Machine
end

