-- ==== Sys2Proof/Machine/Fetch.lean ====
section
/-! DEFINITION. What runs next: the block takes the command frame at the front of its input (30_encoding.md R71), or the
harness takes its statement after the device's turn (48_harness.md R171). -/

namespace Sys2Proof.Machine

/-- What a step finds to do: an instruction to execute from a state, or an answer without one. -/
inductive Fetched where
  | run (i : Instr) (s : State)
  | done (r : Result)

/-- One harness step up to the execution of its statement, from `mark = running` (R171): the device agent takes its
steps, NoHalt is raised past the last statement (R209), and a program that fails a check has no run (R170). -/
def fetchStatement (s : State) : Fetched :=
  match s.mark with
  | .halted  => .done (.fault .runHalted)
  | .fault r => .done (.fault (.runFaulted r))
  | .running =>
    match s.program.failedCheck? with
    | some c => .done (.refused (.illFormed c))
    | none =>
      let t := deviceTurn s
      match t.program.stmts[t.pc]? with
      | none   => .done (.next (t.raise (.noHalt t.pc)))
      | some i => .run i t

/-- The block's frame, if one is complete at the front of the input; a byte that is no opcode gets the response
0x01 (R71, R201). Otherwise the harness steps (log entries 5 and 6). -/
def fetch (s : State) : Fetched :=
  match decode s.input with
  | .ok (i, rest)             => .run i (s.setInput rest)
  | .error (.illegalOpcode _) => .done (answer (.illegalOpcode, s.draws) (s.setInput s.input.tail))
  | .error .incomplete        => fetchStatement s

end Sys2Proof.Machine
end

