-- ==== Sys2Proof/Machine/Step.lean ====
section
/-! DEFINITION. One step of the machine, and how the host places an instruction where the next step takes it. -/

namespace Sys2Proof.Machine

/-- One step: one command frame answered, or one harness statement executed (48_harness.md R171, 70_reset_and_hazards.md
R240: "Each command completes in one step, and each harness statement is one step"). -/
def step (s : State) : Host.Outcome State Fault Refusal :=
  match fetch s with
  | .run i t => exec i t
  | .done r  => r

/-- The state with one command frame delivered to the block in front of every other pending byte, so that the next
step answers exactly it (log entry 7). -/
def State.withFetchWord (s : State) (nbits w : Nat) : State := s.setInput (wordFrame nbits w ++ s.input)

end Sys2Proof.Machine
end

