-- ==== Sys2Proof/Laws/Decode.lean ====
section
/-! SUPPORT. The decoder and the encoder: the opcode map has no overlap, what decoding needs and takes (30_encoding.md R70,
R71, R73), and what the checks of 48_harness.md R170 give. -/

namespace Sys2Proof

@[simp] theorem Cmd.ofOpc_opc (c : Cmd) : Cmd.ofOpc c.opc = some c := by cases c <;> rfl

theorem Cmd.mem_all (c : Cmd) : c ∈ Cmd.all := by cases c <;> decide

/-- An opcode that is found is that command's. -/
theorem Cmd.ofOpc_some {b : Byte} {c : Cmd} (h : Cmd.ofOpc b = some c) : c.opc = b := by
  have := List.find?_some h
  simpa using this

/-- An opcode is found exactly when the table lists it (R73, R75). -/
theorem Cmd.ofOpc_none {b : Byte} : Cmd.ofOpc b = none ↔ ∀ c : Cmd, c.opc ≠ b := by
  simp only [Cmd.ofOpc, List.find?_eq_none, beq_iff_eq]
  exact ⟨fun h c => h c (Cmd.mem_all c), fun h c _ => h c⟩

/-- What is assembled encodes to the opcode and the operand bytes, and there are L of them. -/
theorem Cmd.encode_assemble {c : Cmd} {bs : List Byte} {i : Instr} (h : c.assemble bs = some i) :
    encode i = some (c.opc :: bs) ∧ bs.length = c.operandLen := by
  unfold Cmd.assemble at h
  split at h <;> first | (cases h; exact ⟨rfl, rfl⟩) | cases h

/-- Every operand byte value of the right number is assembled (R75). -/
theorem Cmd.assemble_isSome {c : Cmd} {bs : List Byte} (h : bs.length = c.operandLen) : ∃ i, c.assemble bs = some i := by
  cases c <;> simp only [Cmd.operandLen] at h <;> first
    | (match bs, h with | [_], _ => exact ⟨_, rfl⟩)
    | (match bs, h with | [_, _], _ => exact ⟨_, rfl⟩)
    | (match bs, h with | [_, _, _, _], _ => exact ⟨_, rfl⟩)
    | (match bs, h with | [_, _, _, _, _], _ => exact ⟨_, rfl⟩)
    | (match bs, h with | [_, _, _, _, _, _], _ => exact ⟨_, rfl⟩)
    | (match bs, h with | [_, _, _, _, _, _, _], _ => exact ⟨_, rfl⟩)

/-- A frame with a listed opcode and all its operand bytes decodes, and takes exactly 1 + L bytes (R71). -/
theorem decode_cmd {c : Cmd} {bs rest : List Byte} {i : Instr} (h : c.assemble bs = some i) :
    decode (c.opc :: bs ++ rest) = .ok (i, rest) := by
  have hl := (Cmd.encode_assemble h).2
  simp only [List.cons_append, decode, Cmd.ofOpc_opc, ← hl, List.take_left, List.drop_left, h]

/-- What decoding answers: the opcode is listed, and the first L bytes after it are the operands (R71). -/
theorem decode_ok {bs rest : List Byte} {i : Instr} (h : decode bs = .ok (i, rest)) :
    ∃ c ops, bs = Cmd.opc c :: ops ++ rest ∧ c.assemble ops = some i := by
  cases bs with
  | nil => simp [decode] at h
  | cons b bs =>
    simp only [decode] at h
    split at h
    · cases h
    · next c hc =>
      split at h
      · next j hj =>
        cases h
        exact ⟨c, bs.take c.operandLen, by simp [Cmd.ofOpc_some hc], hj⟩
      · cases h

/-- A statement has no frame, a command has one (R78). -/
theorem encode_isSome_iff (i : Instr) : (encode i).isSome = !i.isStatement := by cases i <;> rfl

/-- Decoding never gives a harness statement (R78). -/
theorem isStatement_of_decode {bs rest : List Byte} {i : Instr} (h : decode bs = .ok (i, rest)) :
    i.isStatement = false := by
  obtain ⟨c, ops, -, hi⟩ := decode_ok h
  have := encode_isSome_iff i
  rw [(Cmd.encode_assemble hi).1] at this
  simpa using this.symm

/-! ## Checks -/

namespace Instr

/-- Passing every check, one by one (R170). -/
theorem wellFormed_iff {p : Program} {i : Instr} :
    i.WellFormed p ↔ i.checkLbl p = true ∧ i.checkVar = true ∧ i.checkCnt = true ∧ i.checkImm = true ∧ i.checkArity = true := by
  unfold WellFormed failedCheck?
  cases i.checkLbl p <;> cases i.checkVar <;> cases i.checkCnt <;> cases i.checkImm <;> cases i.checkArity <;> simp

theorem varsOk_iff {b n : Nat} : varsOk b n = true ↔ b < 32 ∧ b + n ≤ 32 := by simp [varsOk, Config.varCount]

/-! The checks of each statement form, as bounds on its operands. -/

theorem wellFormed_rd {p : Program} {xd a n : Nat} (hx : xd + n ≤ 32) (h1 : 1 ≤ n) (h8 : n ≤ 8) (ha : a ≤ 255) :
    (Instr.rd xd a n).WellFormed p := by
  rw [wellFormed_iff]
  simp [checkLbl, labelUsed, checkVar, checkCnt, checkImm, checkArity, varsOk_iff]
  omega

theorem wellFormed_wr {p : Program} {a xs n : Nat} (hx : xs + n ≤ 32) (h1 : 1 ≤ n) (h8 : n ≤ 8) (ha : a ≤ 255) :
    (Instr.wr a xs n).WellFormed p := by
  rw [wellFormed_iff]
  simp [checkLbl, labelUsed, checkVar, checkCnt, checkImm, checkArity, varsOk_iff]
  omega

theorem wellFormed_mov {p : Program} {xd xs : Nat} (hd : xd < 32) (hs : xs < 32) : (Instr.mov xd xs).WellFormed p := by
  rw [wellFormed_iff]
  simp [checkLbl, labelUsed, checkVar, checkCnt, checkImm, checkArity, varsOk_iff]
  omega

theorem wellFormed_movi {p : Program} {xd imm : Nat} (hd : xd < 32) (hi : imm ≤ 255) :
    (Instr.movi xd imm).WellFormed p := by
  rw [wellFormed_iff]
  simp [checkLbl, labelUsed, checkVar, checkCnt, checkImm, checkArity, varsOk_iff]
  omega

theorem wellFormed_op {p : Program} {m : Cmd} {xd : Nat} {xs : List Nat} (hd : xd + m.payloadLen ≤ 32)
    (hl : xs.length = m.operandLen) (hs : ∀ j ∈ xs, j < 32) : (Instr.op m xd xs).WellFormed p := by
  have : 1 ≤ m.payloadLen := by cases m <;> decide
  rw [wellFormed_iff]
  simp [checkLbl, labelUsed, checkVar, checkCnt, checkImm, checkArity, varsOk_iff, hl]
  exact ⟨by omega, fun j h => by have := hs j h; omega⟩

theorem wellFormed_beqz {p : Program} {xs : Nat} {l : Label} {k : Nat} (hs : xs < 32) (hm : (l, k) ∈ p.labels) :
    (Instr.beqz xs l).WellFormed p := by
  rw [wellFormed_iff]
  simp [checkLbl, labelUsed, checkVar, checkCnt, checkImm, checkArity, varsOk_iff]
  exact ⟨⟨k, hm⟩, by omega⟩

theorem wellFormed_bnez {p : Program} {xs : Nat} {l : Label} {k : Nat} (hs : xs < 32) (hm : (l, k) ∈ p.labels) :
    (Instr.bnez xs l).WellFormed p := by
  rw [wellFormed_iff]
  simp [checkLbl, labelUsed, checkVar, checkCnt, checkImm, checkArity, varsOk_iff]
  exact ⟨⟨k, hm⟩, by omega⟩

theorem wellFormed_jump {p : Program} {i : Instr} {l : Label} {k : Nat} (hm : (l, k) ∈ p.labels)
    (hi : i = .bok l ∨ i = .bnok l ∨ i = .jmp l) : i.WellFormed p := by
  rw [wellFormed_iff]
  rcases hi with rfl | rfl | rfl <;>
    (simp [checkLbl, labelUsed, checkVar, checkCnt, checkImm, checkArity]; exact ⟨k, hm⟩)

end Instr

namespace Program

/-- A well-formed program: its labels are sound, its statements are harness statements, and each passes every check. -/
theorem wellFormed_iff {p : Program} :
    p.WellFormed ↔ p.labelsOk = true ∧ (∀ i ∈ p.stmts, i.isStatement = true) ∧ ∀ i ∈ p.stmts, i.WellFormed p := by
  have key : p.stmts.findSome? (fun i => i.failedCheck? p) = none ↔ ∀ i ∈ p.stmts, i.WellFormed p := by
    simp [List.findSome?_eq_none_iff]
  have hall : p.stmts.all Instr.isStatement = true ↔ ∀ i ∈ p.stmts, i.isStatement = true := List.all_eq_true
  unfold WellFormed failedCheck?
  by_cases hl : p.labelsOk = true
  · by_cases hs : p.stmts.all Instr.isStatement = true
    · simp only [hl, hs, Bool.not_true, Bool.false_eq_true, if_false, key, ← hall, true_and]
    · rw [← hall]; simp [hl, hs]
  · simp [hl]

/-- A label that is looked up is in the table. -/
theorem index?_mem {p : Program} {l : Label} {t : Nat} (h : p.index? l = some t) : (l, t) ∈ p.labels := by
  simp only [index?, Option.map_eq_some_iff] at h
  obtain ⟨e, he, rfl⟩ := h
  have h1 := List.find?_some he
  have h2 := List.mem_of_find?_eq_some he
  have : e.1 = l := by simpa using h1
  rwa [← this]

/-- A label defined once is found at its index. -/
theorem index?_of_mem {p : Program} {l : Label} {t : Nat} (hn : (p.labels.map Prod.fst).Nodup) (h : (l, t) ∈ p.labels) :
    p.index? l = some t := by
  unfold index?
  generalize p.labels = ls at hn h
  induction ls with
  | nil => simp at h
  | cons e ls ih =>
    simp only [List.map_cons, List.nodup_cons, List.mem_cons] at hn h
    rcases h with h | h
    · subst h; simp
    · have : ¬ e.1 = l := fun he => hn.1 (he ▸ List.mem_map_of_mem (f := Prod.fst) h)
      rw [List.find?_cons, show (e.1 == l) = false by simpa using this]
      exact ih hn.2 h

/-- A used label that passes LBL is found. -/
theorem index?_isSome {p : Program} {i : Instr} {l : Label} (h : i.checkLbl p = true) (hl : i.labelUsed = some l) :
    ∃ t, p.index? l = some t := by
  rw [Instr.checkLbl, hl] at h
  simp only [List.any_eq_true] at h
  obtain ⟨e, he, hel⟩ := h
  cases hf : p.labels.find? (fun e => e.1 == l) with
  | some e => exact ⟨e.2, by simp [index?, hf]⟩
  | none => exact absurd hel (by simpa using List.find?_eq_none.1 hf e he)

end Program

end Sys2Proof
end

