-- ==== Sys2Proof/Laws/PerInstr.lean ====
section
/-! SUPPORT. Statements for all instructions, one lemma for each constructor of Instr. The family FrameRoundTrip: the
frame an instruction encodes to decodes to that instruction, whatever bytes follow it, and the rest is left over
(30_encoding.md R70, R71, R73). A harness statement has no frame (R78), and its lemma says so. -/

namespace Sys2Proof.Laws.FrameRoundTrip

/-- A block command has a frame, which decodes to it and leaves every later byte; a harness statement has none. -/
def Statement (i : Sys2Proof.Instr) : Prop :=
  (i.isStatement = true → Sys2Proof.encode i = none) ∧
  (i.isStatement = false →
    ∃ frame, Sys2Proof.encode i = some frame ∧
      ∀ rest, Sys2Proof.decode (frame ++ rest) = .ok (i, rest))

/-- A command that is assembled from its operand bytes round-trips. -/
theorem of_assemble {i : Sys2Proof.Instr} {c : Sys2Proof.Cmd} {ops : List Sys2Proof.Byte} (h : c.assemble ops = some i) :
    Statement i := by
  have he := (Sys2Proof.Cmd.encode_assemble h).1
  have hs := Sys2Proof.encode_isSome_iff i
  rw [he] at hs
  refine ⟨fun h' => ?_, fun _ => ⟨c.opc :: ops, he, fun rest => Sys2Proof.decode_cmd h⟩⟩
  simp [h'] at hs

/-- A harness statement has no frame. -/
theorem of_statement {i : Sys2Proof.Instr} (h : i.isStatement = true) : Statement i := by
  have hs := Sys2Proof.encode_isSome_iff i
  refine ⟨fun _ => ?_, fun h' => by simp [h] at h'⟩
  simpa [h] using hs

theorem bcdEnc (n : Sys2Proof.Byte) : Statement (.bcdEnc n) := of_assemble (c := .bcdEnc) (ops := [n]) rfl
theorem bcdDec (b : Sys2Proof.Byte) : Statement (.bcdDec b) := of_assemble (c := .bcdDec) (ops := [b]) rfl
theorem dow (yearHi yearLo month day : Sys2Proof.Byte) : Statement (.dow yearHi yearLo month day) :=
  of_assemble (c := .dow) (ops := [yearHi, yearLo, month, day]) rfl
theorem tempDec (msb lsb : Sys2Proof.Byte) : Statement (.tempDec msb lsb) := of_assemble (c := .tempDec) (ops := [msb, lsb]) rfl
theorem almMap (mode sec min hour dow day : Sys2Proof.Byte) : Statement (.almMap mode sec min hour dow day) :=
  of_assemble (c := .almMap) (ops := [mode, sec, min, hour, dow, day]) rfl
theorem almDec (sel r0 r1 r2 r3 : Sys2Proof.Byte) : Statement (.almDec sel r0 r1 r2 r3) :=
  of_assemble (c := .almDec) (ops := [sel, r0, r1, r2, r3]) rfl
theorem almCtl (mode ctrl : Sys2Proof.Byte) : Statement (.almCtl mode ctrl) := of_assemble (c := .almCtl) (ops := [mode, ctrl]) rfl
theorem statAlm (st : Sys2Proof.Byte) : Statement (.statAlm st) := of_assemble (c := .statAlm) (ops := [st]) rfl
theorem statOsf (st : Sys2Proof.Byte) : Statement (.statOsf st) := of_assemble (c := .statOsf) (ops := [st]) rfl
theorem statClr (st m : Sys2Proof.Byte) : Statement (.statClr st m) := of_assemble (c := .statClr) (ops := [st, m]) rfl
theorem timeEnc (sec min hour dow day month yoff : Sys2Proof.Byte) : Statement (.timeEnc sec min hour dow day month yoff) :=
  of_assemble (c := .timeEnc) (ops := [sec, min, hour, dow, day, month, yoff]) rfl
theorem timeDec (t0 t1 t2 t3 t4 t5 t6 : Sys2Proof.Byte) : Statement (.timeDec t0 t1 t2 t3 t4 t5 t6) :=
  of_assemble (c := .timeDec) (ops := [t0, t1, t2, t3, t4, t5, t6]) rfl
theorem rd (xd addr n : Nat) : Statement (.rd xd addr n) := of_statement rfl
theorem wr (addr xs n : Nat) : Statement (.wr addr xs n) := of_statement rfl
theorem mov (xd xs : Nat) : Statement (.mov xd xs) := of_statement rfl
theorem movi (xd imm : Nat) : Statement (.movi xd imm) := of_statement rfl
theorem op (m : Sys2Proof.Cmd) (xd : Nat) (xs : List Nat) : Statement (.op m xd xs) := of_statement rfl
theorem beqz (xs : Nat) (label : Sys2Proof.Label) : Statement (.beqz xs label) := of_statement rfl
theorem bnez (xs : Nat) (label : Sys2Proof.Label) : Statement (.bnez xs label) := of_statement rfl
theorem bok (label : Sys2Proof.Label) : Statement (.bok label) := of_statement rfl
theorem bnok (label : Sys2Proof.Label) : Statement (.bnok label) := of_statement rfl
theorem jmp (label : Sys2Proof.Label) : Statement (.jmp label) := of_statement rfl
theorem halt : Statement .halt := of_statement rfl

end Sys2Proof.Laws.FrameRoundTrip
end

