-- ==== Sys2Proof/Machine/Session.lean ====
section
/-! DEFINITION. The composite operations of 44_alarm.md R131 to R134 and 70_reset_and_hazards.md R232, as harness programs:
which block commands and which harness statements realise each one, in which order. The variables are those of the
programs of 95_test_vectors.md section 5; the label 0 is `done`, the label 1 is `fail` (log entry 17). -/

namespace Sys2Proof.Machine.Session

/-- the label in front of the last HALT of a successful run -/
abbrev doneLabel : Label := 0
/-- the label in front of the HALT that ends a run whose bus transaction failed -/
abbrev failLabel : Label := 1

/-- A body that may jump to `done` or `fail`, closed by the two HALTs. -/
def close (body : List Instr) : Program :=
  ⟨body ++ [.halt, .halt], [(doneLabel, body.length), (failLabel, body.length + 1)]⟩

/-- setAlarm (R131) for a mode known before the run, held in variable xm: ALM.MAP of the five values from t up into
out .. out+7, one WR of the block, then RD, ALM.CTL and WR of the control register. A mode that names no alarm ends
at ALM.MAP, which faults (R202, R208). -/
def setAlarm (mode : Byte) (xm t out c c' : Nat) : List Instr :=
  .op .almMap out [xm, t, t + 1, t + 2, t + 3, t + 4] ::
  match resolveMode mode with
  | none => []
  | some (_, target) =>
    [.wr (alarmBlock target).1.toNat (out + 4) (alarmBlock target).2.toNat, .bnok failLabel,
     .rd c controlAddr 1, .bnok failLabel,
     .op .almCtl c' [xm, c],
     .wr controlAddr c' 1, .bnok failLabel]

/-- The second half of a read-modify-write of the status register whose first read is in s (R132 step 3): read again
into s2 when RMW_REREAD holds, clear the bits held in m, write the result, which is put in r. -/
def statusClear (reread : Bool) (s s2 m r : Nat) : List Instr :=
  (if reread then [.rd s2 statusAddr 1, .bnok failLabel] else []) ++
  [.op .statClr r [if reread then s2 else s, m], .wr statusAddr r 1, .bnok failLabel]

/-- checkAlarms (R132): the result is x1. -/
def checkAlarms (reread : Bool) : Program :=
  close ([.rd 0 statusAddr 1, .bnok failLabel, .op .statAlm 1 [0], .beqz 1 doneLabel] ++ statusClear reread 0 3 1 2)

/-- checkStopFlag(clear) (R133): the result is x1; the mask 0x80 stands in x4. -/
def checkStopFlag (clear reread : Bool) : Program :=
  close ([.rd 0 statusAddr 1, .bnok failLabel, .op .statOsf 1 [0]] ++
    if clear then [.beqz 1 doneLabel, .movi 4 0x80] ++ statusClear reread 0 3 4 2 else [])

/-- The body of disableAlarms (R134): the time just read pins Alarm 2 with mode 0x02, then Alarm 1 with mode 0x01,
then the status read and clear. -/
def disableAlarmsBody (reread : Bool) : List Instr :=
  [.rd 1 timeAddr 7, .bnok failLabel, .op .timeDec 8 [1, 2, 3, 4, 5, 6, 7], .movi 16 0x02] ++
  setAlarm 0x02#8 16 8 17 25 26 ++
  [.movi 16 0x01] ++
  setAlarm 0x01#8 16 8 17 25 26 ++
  [.rd 27 statusAddr 1, .bnok failLabel, .op .statAlm 28 [27], .beqz 28 doneLabel] ++
  statusClear reread 27 30 28 29

/-- disableAlarms (R134). -/
def disableAlarms (reread : Bool) : Program := close (disableAlarmsBody reread)

/-- The source's initialisation (R232): the control register is zeroed, then disableAlarms. -/
def create (reread : Bool) : Program :=
  close ([.movi 0 0x00, .wr controlAddr 0 1, .bnok failLabel] ++ disableAlarmsBody reread)

/-- checkAlarms under the open parameter RMW_REREAD (R8, R132). -/
def checkAlarmsOpen : Program := checkAlarms Config.rmwReread

/-- readTemperature, whose decode is TEMP.DEC (R111; 95_test_vectors.md program P1): the result is x2, x3. -/
def readTemperature : Program :=
  close [.rd 0 tempAddr 2, .bnok failLabel, .op .tempDec 2 [0, 1]]

end Sys2Proof.Machine.Session
end

