-- ==== Sys2Proof/Safety.lean ====
section
/-! DEFINITION. The terms claims are stated in: how a run ends (48_harness.md R183), the invariant of every step, the
bounds of the device agent (20_memory.md R52), the allowed field bytes (44_alarm.md R122), and the proleptic Gregorian
calendar that 42_dow.md R104 speaks of. -/

namespace Sys2Proof.Machine

/-! ## How a run ends (R183) -/

/-- Only a halted state is final (R183). -/
abbrev State.Final (s : State) : Prop := s.mark = .halted

/-- The observable parts of a final state: x, OK and RI (R183). -/
def State.observed (s : State) : Vector (Option Byte) Config.varCount × Option Bool × Memory := (s.x, s.ok, s.ri)

/-- The device agent does not stop at HALT: what the register image may be some time after a run (R183). -/
def DriftsTo (m m' : Memory) : Prop := ∃ ds : List DeviceStep, m' = m.deviceSteps ds

/-! ## The bounds of the device agent (R52) -/

/-- What a device step may do to the register image: 0x07..0x0E never change, A1F, A2F and OSF are never cleared, and
nothing else is bounded. -/
def DeviceMay (m m' : Memory) : Prop :=
  (∀ a, 0x07 ≤ a → a ≤ 0x0E → m'.read a = m.read a) ∧
  (∀ k, k = 0 ∨ k = 1 ∨ k = 7 → (m.read statusAddr).getLsbD k = true → (m'.read statusAddr).getLsbD k = true)

/-! ## The invariant -/

/-- A recorded fault is one the spec names, with a cause that still stands (R206 to R210). -/
def State.MarkSound (s : State) : Prop :=
  match s.mark with
  | .running | .halted           => True
  | .fault (.unwrittenVar (.x i)) => i < Config.varCount ∧ s.getVar i = none
  | .fault (.unwrittenVar .ok)    => s.ok = none
  | .fault (.badAddress a n)      => admitted a n = false
  | .fault (.cmdError m st)       => st = 0x02#8 ∧ (m = .almMap ∨ m = .almDec ∨ m = .almCtl)
  | .fault (.noHalt p)            => p = s.pc ∧ s.program.stmts.length ≤ p

/-- What every step keeps: the register image lists exactly the admitted addresses (R26), pc is a statement of a
well-formed program or one past its last (48_harness.md section 4), and a recorded fault has its cause. -/
structure State.Inv (s : State) : Prop where
  ri   : s.ri.wf
  pc   : s.program.WellFormed → s.pc ≤ s.program.stmts.length
  mark : s.MarkSound

/-! ## Field bytes (R122), by value -/

/-- The BCD byte of a value in 0..99, by value: tens * 16 + units (R90). -/
def bcdValue (n : Nat) : Byte := BitVec.ofNat 8 (n / 10 * 16 + n % 10)

/-- b is a byte that fieldbyte(v, M) may give: the BCD form with bit 7 set by M, or, for v above 99, any byte with
bit 7 set by M (R122). -/
def IsFieldByte (v : Byte) (M : Bool) (b : Byte) : Prop :=
  if v.toNat ≤ 99 then b = bcdValue v.toNat ||| (if M then 0x80#8 else 0x00#8)
  else M = true → b.getLsbD 7 = true

/-- b is a byte that daybyte(v, M, DY) may give (R122). -/
def IsDayByte (v : Byte) (M DY : Bool) (b : Byte) : Prop :=
  if v.toNat ≤ 99 then
    b = bcdValue v.toNat ||| (if M then 0x80#8 else 0x00#8) ||| (if DY then 0x40#8 else 0x00#8)
  else (M = true → b.getLsbD 7 = true) ∧ (DY = true → b.getLsbD 6 = true)

/-- unbcd by value: high digit * 10 + low digit (R92). -/
def unbcdValue (b : Nat) : Nat := b / 16 * 10 + b % 16

/-- The hour decoder by value (R151). -/
def hourValue (b : Nat) : Nat :=
  if b / 64 % 2 = 1 then unbcdValue (b % 32) + (if b / 32 % 2 = 1 then 0 else 12) else unbcdValue (b % 64)

/-- The day-of-week congruence over the naturals, for the months 0..14 and a year that is not 0 before March
(R100, R102). -/
def dowValue (Y M D : Nat) : Nat :=
  let y := if M ≤ 2 then Y - 1 else Y
  let m := if M ≤ 2 then M + 10 else M - 2
  let r := (D + y + y / 4 - y / 100 + y / 400 + 31 * m / 12) % 7
  if r = 0 then 7 else r

/-! ## Field bytes in sequence: which draw goes to which field (R122; log entry 12) -/

/-- How many of the field values are above 99, and so take a draw. -/
def outOfRange (vs : List Byte) : Nat := (vs.filter (fun v => 99 < v.toNat)).length

/-- The BCD parts fb(v) of the field values vs in order: the BCD byte of a value up to 99, and for each value above 99 the
next of the drawn bytes bs; the list ends where bs has no byte left for one. -/
def fieldParts : List Byte → List Byte → List Byte
  | [], _            => []
  | v :: vs, []      => if v.toNat ≤ 99 then bcdValue v.toNat :: fieldParts vs [] else []
  | v :: vs, b :: bs => if v.toNat ≤ 99 then bcdValue v.toNat :: fieldParts vs (b :: bs) else b :: fieldParts vs bs

/-- What remains of the draws after k draws of BCD_ENC_OOR from the queue. -/
def Draws.afterOor (d : Draws) (k : Nat) : Draws := { d with bcdEncOor := d.bcdEncOor.drop k, count := d.count + k }

/-- The mask byte of a field (R122): M at bit 7. -/
def maskBit (M : Bool) : Byte := if M then 0x80#8 else 0x00#8

/-- The DY byte of a day field (R122): DY at bit 6. -/
def dyBit (DY : Bool) : Byte := if DY then 0x40#8 else 0x00#8

/-! ## The draws a command's rule names, and the block's answers to a stream of frames (R20) -/

/-- Two states' draws agree on what the rule of a command names: BCD_ENC_OOR for BCD.ENC, ALM.MAP and TIME.ENC (R91, R122,
R150), DOW_OOD for DOW (R101), nothing for the others. The counter is part of a draw past the end of a queue (log entry 1). -/
def AgreeOnNamedDraws (i : Instr) (d d' : Draws) : Prop :=
  match i with
  | .bcdEnc _ | .almMap _ _ _ _ _ _ | .timeEnc _ _ _ _ _ _ _ => d.bcdEncOor = d'.bcdEncOor ∧ d.count = d'.count
  | .dow _ _ _ _                                             => d.dowOod = d'.dowOod ∧ d.count = d'.count
  | _                                                        => True

/-- The response frames the block gives to complete command frames, one after the other, and the draws that remain: each
frame is answered by Block(frame) (R176) with the draws the frames before it left. -/
def blockResponses : List (List Byte) → Draws → List (List Byte) × Draws
  | [], d      => ([], d)
  | f :: fs, d =>
    match blockResponse f d with
    | none   => blockResponses fs d
    | some r => (r.1.frame :: (blockResponses fs r.2).1, (blockResponses fs r.2).2)

/-! ## What an instruction may write -/

/-- x[j] is a destination variable of the instruction (R172, R174 to R176). -/
def WritesVar (i : Instr) (j : Nat) : Prop :=
  match i with
  | .rd xd _ n  => xd ≤ j ∧ j < xd + n
  | .mov xd _   => j = xd
  | .movi xd _  => j = xd
  | .op m xd _  => xd ≤ j ∧ j < xd + m.payloadLen
  | _           => False

/-- RI[a] is a byte the instruction may store to (R173). -/
def StoresTo (i : Instr) (a : Nat) : Prop :=
  match i with
  | .wr addr _ n => addr ≤ a ∧ a < addr + n
  | _            => False

/-- The statement is a bus statement, which alone writes OK (R25, R46). -/
def IsBusStatement (i : Instr) : Prop :=
  match i with
  | .rd _ _ _ | .wr _ _ _ => True
  | _                     => False

/-- A program that fails one of the five named checks of R170, each in its own words. -/
def FailsNamedCheck (p : Program) : Prop :=
  -- LBL: a label is defined twice, or one is used that is not defined
  ¬ (p.labels.map Prod.fst).Nodup ∨
  (∃ i ∈ p.stmts, ∃ l, i.labelUsed = some l ∧ ∀ e ∈ p.labels, e.1 ≠ l) ∨
  -- VAR, CNT and IMM of the bus statements
  (∃ xd a n, .rd xd a n ∈ p.stmts ∧ (31 < xd ∨ 31 < xd + n - 1 ∨ n < 1 ∨ 8 < n ∨ 255 < a)) ∨
  (∃ a xs n, .wr a xs n ∈ p.stmts ∧ (31 < xs ∨ 31 < xs + n - 1 ∨ n < 1 ∨ 8 < n ∨ 255 < a)) ∨
  -- VAR and IMM of the variable statements
  (∃ xd xs, .mov xd xs ∈ p.stmts ∧ (31 < xd ∨ 31 < xs)) ∨
  (∃ xd imm, .movi xd imm ∈ p.stmts ∧ (31 < xd ∨ 255 < imm)) ∨
  -- VAR and ARITY of OP
  (∃ m xd xs, .op m xd xs ∈ p.stmts ∧
    (31 < xd ∨ 31 < xd + m.payloadLen - 1 ∨ (∃ j ∈ xs, 31 < j) ∨ xs.length ≠ m.operandLen)) ∨
  -- VAR of the branches
  (∃ xs l, (.beqz xs l ∈ p.stmts ∨ .bnez xs l ∈ p.stmts) ∧ 31 < xs)

end Sys2Proof.Machine

namespace Sys2Proof.Calendar

/-! ## The proleptic Gregorian calendar (R104), independent of the congruence -/

/-- A leap year. -/
def leap (y : Nat) : Bool := y % 4 = 0 && (y % 100 ≠ 0 || y % 400 = 0)

/-- The days of a month. -/
def monthDays (y m : Nat) : Nat :=
  if m = 2 then (if leap y then 29 else 28) else if m = 4 ∨ m = 6 ∨ m = 9 ∨ m = 11 then 30 else 31

/-- A date: year, month, day. -/
structure Date where
  y : Nat
  m : Nat
  d : Nat
  deriving DecidableEq, Repr

/-- The next day. -/
def Date.next (t : Date) : Date :=
  if t.d < monthDays t.y t.m then ⟨t.y, t.m, t.d + 1⟩
  else if t.m < 12 then ⟨t.y, t.m + 1, 1⟩
  else ⟨t.y + 1, 1, 1⟩

/-- A date of the calendar, from year 1 on. -/
def Date.valid (t : Date) : Prop := 1 ≤ t.y ∧ 1 ≤ t.m ∧ t.m ≤ 12 ∧ 1 ≤ t.d ∧ t.d ≤ monthDays t.y t.m

/-- The date k days after 0001-01-01, which was a Monday. -/
def dayAfter : Nat → Date
  | 0     => ⟨1, 1, 1⟩
  | k + 1 => (dayAfter k).next

end Sys2Proof.Calendar
end

