-- ==== Sys2Proof/Certificates/Slice0/Obligations.lean ====
section
/-! DEFINITION. The statements for the provers, each a Prop. They come from the numbered rules of spec/. Where a statement
says `{ s with … }`, every field it does not name is as in s: that is the statement's frame. -/

open Sys2Proof Sys2Proof.Machine

/-! ## Encoding and decoding (30_encoding.md) -/

/-- The opcode map is the table of R73: opcode, operand length and payload length of the twelve commands, in order. -/
def Obligations.OpcodeMapIsTheTable : Prop :=
  Cmd.all.map (fun c => (c.opc, c.operandLen, c.payloadLen)) =
    [(0x01#8, 1, 1), (0x02#8, 1, 1), (0x10#8, 4, 1), (0x20#8, 2, 2), (0x30#8, 6, 8), (0x31#8, 5, 5), (0x32#8, 2, 1),
     (0x38#8, 1, 1), (0x39#8, 1, 1), (0x3A#8, 2, 1), (0x40#8, 7, 7), (0x41#8, 7, 8)] ∧
  ∀ c : Cmd, c ∈ Cmd.all

/-- The frames of R79 and of 95_test_vectors.md, byte by byte, decode to the commands they stand for. -/
def Obligations.WorkedFramesDecode : Prop :=
  decode [0x01#8, 0x3B#8] = .ok (.bcdEnc 59#8, []) ∧
  decode [0x02#8, 0x59#8] = .ok (.bcdDec 0x59#8, []) ∧
  decode [0x10#8, 0x07#8, 0xE8#8, 0x06#8, 0x0A#8] = .ok (.dow 0x07#8 0xE8#8 6#8 10#8, []) ∧
  decode [0x20#8, 0xE7#8, 0x40#8] = .ok (.tempDec 0xE7#8 0x40#8, []) ∧
  decode [0x32#8, 0x01#8, 0x00#8] = .ok (.almCtl 0x01#8 0x00#8, []) ∧
  decode [0x00#8] = .error (.illegalOpcode 0x00#8)

/-- Decode and encode agree: every block command, at every operand value, has a frame that decodes to it and leaves
every byte that follows; every harness statement has none. -/
def Obligations.EveryCommandRoundTrips : Prop := ∀ i : Instr, Laws.FrameRoundTrip.Statement i

/-- The other direction: whatever decodes is the frame of the instruction it decodes to, followed by the rest, so no
byte string decodes two ways and no frame stands for two instructions. -/
def Obligations.DecodedFramesAreEncodings : Prop :=
  (∀ bs rest i, decode bs = .ok (i, rest) → ∃ frame, encode i = some frame ∧ bs = frame ++ rest) ∧
  (∀ i j frame, encode i = some frame → encode j = some frame → i = j)

/-- A complete frame at the front of the input is taken and answered once (R70), with R payload bytes or, for the three
alarm commands, with BadTarget alone (R200, R202); a frame that lacks operand bytes is not decoded (R71). That the machine's
next step answers it, in every state and before any harness statement, is the model's own choice (log entry 6). -/
def Obligations.CompleteFrameIsAnsweredOnce : Prop :=
  ∀ (m : Cmd) (ops rest : List Byte) (s : State),
    (ops.length = m.operandLen → s.input = m.opc :: ops ++ rest →
      ∃ r d, step s = .next { s with input := rest, responses := s.responses ++ [r], draws := d } ∧
        ((∃ p, r = 0x00#8 :: p ∧ p.length = m.payloadLen) ∨
         (r = [0x02#8] ∧ (m = .almMap ∨ m = .almDec ∨ m = .almCtl)))) ∧
    (ops.length < m.operandLen → decode (m.opc :: ops) = .error .incomplete)

/-- A first byte that is no opcode of the table is answered with 0x01 and taken alone; nothing else happens (R201). That this
is the machine's next step, ahead of any harness statement, is the model's own choice (log entry 6). -/
def Obligations.IllegalOpcodeIsAnswered : Prop :=
  ∀ (opc : Byte) (rest : List Byte) (s : State),
    opc ∉ [0x01#8, 0x02#8, 0x10#8, 0x20#8, 0x30#8, 0x31#8, 0x32#8, 0x38#8, 0x39#8, 0x3A#8, 0x40#8, 0x41#8] →
    s.input = opc :: rest →
    step s = .next { s with input := rest, responses := s.responses ++ [[0x01#8]] }

/-- A stream of any number of complete frames is answered frame by frame, in order: the responses are those the block gives
to the frames one after the other, the k-th to the k-th frame; the harness state, the register image and the program are
untouched. That the frames go ahead of the harness statements is the model's own choice (log entry 6). -/
def Obligations.FrameStreamIsAnsweredInOrder : Prop :=
  ∀ (fs : List (Cmd × List Byte)) (rest : List Byte) (s : State),
    let frames := fs.map (fun f : Cmd × List Byte => f.1.opc :: f.2)
    let out := blockResponses frames s.draws
    (∀ f ∈ fs, f.2.length = f.1.operandLen) → s.input = frames.flatten ++ rest →
    core.run fs.length s = .next { s with input := rest, responses := s.responses ++ out.1, draws := out.2 } ∧
    out.1.length = fs.length ∧
    ∀ (k : Nat) (f : Cmd × List Byte), fs[k]? = some f →
      ∃ (resp : Response) (d d' : Draws), blockResponse (f.1.opc :: f.2) d = some (resp, d') ∧
        d = (blockResponses (frames.take k) s.draws).2 ∧ out.1[k]? = some resp.frame ∧
        ((∃ p, resp.frame = 0x00#8 :: p ∧ p.length = f.1.payloadLen) ∨
         (resp.frame = [0x02#8] ∧ (f.1 = .almMap ∨ f.1 = .almDec ∨ f.1 = .almCtl)))

/-! ## One step (30_encoding.md R71, 48_harness.md R171) -/

/-- A step runs the decoded command: the frame's bytes are taken from the input and its instruction is executed. That it
does so whatever harness statement stands at pc is the model's own choice (log entry 6): the spec gives no order between a
frame from outside and a harness statement. -/
def Obligations.StepRunsTheDecodedFrame : Prop :=
  ∀ (i : Instr) (rest : List Byte) (s : State),
    decode s.input = .ok (i, rest) → step s = exec i { s with input := rest }

/-- A harness step (R171): with no complete frame pending, the device agent takes the steps it draws, then NoHalt is
raised past the last statement, or else the statement at pc is executed. The order of frames and statements is the
model's own (log entry 6). -/
def Obligations.StepRunsTheStatementAtPc : Prop :=
  ∀ (s : State), s.mark = .running → s.program.WellFormed → decode s.input = .error .incomplete →
    let t := { s with ri := s.ri.deviceSteps s.draws.nextDevice.1, draws := s.draws.nextDevice.2 }
    (s.program.stmts.length ≤ s.pc → step s = .next { t with mark := .fault (.noHalt s.pc) }) ∧
    ∀ i, s.program.stmts[s.pc]? = some i → step s = exec i t

/-- A program that fails LBL, VAR, CNT, IMM or ARITY is refused, in every state of a run (R170). Which check the
refusal names is the model's own (log entry 10), so the statement does not say. An address that is not admitted is no
failure: a program of RD and WR at any addresses is well formed. -/
def Obligations.FailedCheckRefusesTheProgram : Prop :=
  (∀ (s : State), s.mark = .running → decode s.input = .error .incomplete → FailsNamedCheck s.program →
    ∃ c, step s = .refused (.illFormed c)) ∧
  (∀ p : Program, p.labels = [] →
    (∀ i ∈ p.stmts, ∃ x a n, (i = .rd x a n ∨ i = .wr a x n) ∧ x + n ≤ 32 ∧ 1 ≤ n ∧ n ≤ 8 ∧ a ≤ 255) → p.WellFormed)

/-- A running state with a well-formed program always has a next state, whatever the variables, the register image,
the pending frames and the draws: a run never stops on its data. -/
def Obligations.WellFormedRunAlwaysSteps : Prop :=
  ∀ (s : State), s.mark = .running → s.program.WellFormed → ∃ t, step s = .next t

/-! ## The block as a whole (10_state.md R20, 60_exceptions.md R202) -/

/-- The response to a command is a function of its frame and of the draws its rule names (R20): two states that agree on
those draws, whatever else they hold and whatever other draws are pending, get the same response, and nothing else changes;
no draw that no command names is touched. How a draw is held (a queue, and a counter past its end) is log entry 1. -/
def Obligations.ResponseIgnoresAllState : Prop :=
  ∀ (i : Instr) (s s' : State), i.isStatement = false → AgreeOnNamedDraws i s.draws s'.draws →
    ∃ r d d', exec i s = .next { s with responses := s.responses ++ [r], draws := d } ∧
      exec i s' = .next { s' with responses := s'.responses ++ [r], draws := d' } ∧
      AgreeOnNamedDraws i d d' ∧
      d = { s.draws with bcdEncOor := d.bcdEncOor, dowOod := d.dowOod, count := d.count }

/-- A command answers BadTarget exactly when it is ALM.MAP or ALM.CTL with selector 00, or ALM.DEC with a selector
other than 0x01 and 0x02 (R202). -/
def Obligations.BadTargetExactlyForBadSelectors : Prop :=
  ∀ (i : Instr) (s : State), i.isStatement = false →
    ((∃ d, exec i s = .next { s with responses := s.responses ++ [[0x02#8]], draws := d }) ↔
      (∃ mode sec min hour dow day, i = .almMap mode sec min hour dow day ∧ mode.toNat % 4 = 0) ∨
      (∃ mode ctrl, i = .almCtl mode ctrl ∧ mode.toNat % 4 = 0) ∨
      (∃ sel r0 r1 r2 r3, i = .almDec sel r0 r1 r2 r3 ∧ sel ≠ 0x01#8 ∧ sel ≠ 0x02#8))

/-! ## BCD codec (41_bcd.md) -/

/-- BCD.ENC (R91): the BCD byte of a value in 0..99, and any byte (BCD_ENC_OOR, a free value) above it. -/
def Obligations.BcdEncGivesTheDigitsOrTheDraw : Prop :=
  ∀ (n : Byte) (s : State),
    encode (.bcdEnc n) = some [0x01#8, n] ∧
    (n.toNat ≤ 99 →
      exec (.bcdEnc n) s = .next { s with responses := s.responses ++ [[0x00#8, bcdValue n.toNat]] }) ∧
    (99 < n.toNat →
      (∃ b d, exec (.bcdEnc n) s = .next { s with responses := s.responses ++ [[0x00#8, b]], draws := d }) ∧
      ∀ b bs, s.draws.bcdEncOor = b :: bs →
        ∃ d, exec (.bcdEnc n) s = .next { s with responses := s.responses ++ [[0x00#8, b]], draws := d })

/-- BCD.DEC (R93): high nibble * 10 + low nibble for every byte, at most 165. -/
def Obligations.BcdDecIsTotal : Prop :=
  ∀ (b : Byte) (s : State),
    encode (.bcdDec b) = some [0x02#8, b] ∧
    exec (.bcdDec b) s =
      .next { s with responses := s.responses ++ [[0x00#8, BitVec.ofNat 8 (b.toNat / 16 * 10 + b.toNat % 16)]] } ∧
    b.toNat / 16 * 10 + b.toNat % 16 ≤ 165

/-- The laws of the codec, through the commands: encoding 0..99 gives two digits of at most 9, and decoding gives the
number back; decoding a valid BCD byte gives a number in 0..99 that encodes to it. -/
def Obligations.BcdRoundTrips : Prop :=
  (∀ (n : Byte) (s s' : State), n.toNat ≤ 99 →
    ∃ b : Byte, exec (.bcdEnc n) s = .next { s with responses := s.responses ++ [[0x00#8, b]] } ∧
      b.toNat / 16 ≤ 9 ∧ b.toNat % 16 ≤ 9 ∧
      exec (.bcdDec b) s' = .next { s' with responses := s'.responses ++ [[0x00#8, n]] }) ∧
  (∀ (b : Byte) (s s' : State), b.toNat / 16 ≤ 9 → b.toNat % 16 ≤ 9 →
    ∃ n : Byte, n.toNat ≤ 99 ∧ exec (.bcdDec b) s = .next { s with responses := s.responses ++ [[0x00#8, n]] } ∧
      exec (.bcdEnc n) s' = .next { s' with responses := s'.responses ++ [[0x00#8, b]] })

/-! ## Day-of-week engine (42_dow.md) -/

/-- DOW (R101): the congruence on DOWDOM, and any byte (DOW_OOD, a free value) outside it. -/
def Obligations.DowFollowsTheCongruence : Prop :=
  ∀ (yh yl m d : Byte) (s : State),
    let Y := yh.toNat * 256 + yl.toNat
    encode (.dow yh yl m d) = some [0x10#8, yh, yl, m, d] ∧
    (m.toNat ≤ 14 → ¬ (Y = 0 ∧ m.toNat ≤ 2) →
      exec (.dow yh yl m d) s =
        .next { s with responses := s.responses ++ [[0x00#8, BitVec.ofNat 8 (dowValue Y m.toNat d.toNat)]] }) ∧
    (¬ (m.toNat ≤ 14 ∧ ¬ (Y = 0 ∧ m.toNat ≤ 2)) →
      (∃ b dr, exec (.dow yh yl m d) s = .next { s with responses := s.responses ++ [[0x00#8, b]], draws := dr }) ∧
      ∀ b bs, s.draws.dowOod = b :: bs →
        ∃ dr, exec (.dow yh yl m d) s = .next { s with responses := s.responses ++ [[0x00#8, b]], draws := dr })

/-- On DOWDOM truncating and floor division agree, and the result is in 1..7 (R102, R103). -/
def Obligations.DowIsTheSameUnderBothDivisions : Prop :=
  ∀ Y M D : Nat, InDowDom Y M D → dowTruncating Y M D = dow Y M D ∧ 1 ≤ dow Y M D ∧ dow Y M D ≤ 7

/-- The function dow is the weekday of the proleptic Gregorian calendar: k days after Monday 0001-01-01 it gives
k mod 7 + 1, with Monday = 1 and Sunday = 7, for every k, and every such day is a date of the calendar (R104). It speaks of
the function over all years; that DOW gives it for a 16-bit year is DowFollowsTheCongruence. -/
def Obligations.DowIsTheGregorianWeekday : Prop :=
  ∀ k : Nat, (Calendar.dayAfter k).valid ∧
    dow (Calendar.dayAfter k).y (Calendar.dayAfter k).m (Calendar.dayAfter k).d = ((k % 7 + 1 : Nat) : Int)

/-! ## Temperature decoder (43_temperature.md) -/

/-- TEMP.DEC (R110, R111): the 16-bit two's-complement count 4 * s8(msb) + lsb[7:6], most significant byte first. -/
def Obligations.TempDecIsTheQuarterDegreeCount : Prop :=
  ∀ (msb lsb : Byte) (s : State),
    encode (.tempDec msb lsb) = some [0x20#8, msb, lsb] ∧
    ∃ q : Half, q.toInt = 4 * msb.toInt + (lsb.toNat / 64 : Nat) ∧ -512 ≤ q.toInt ∧ q.toInt ≤ 511 ∧
      exec (.tempDec msb lsb) s =
        .next { s with responses := s.responses ++ [[0x00#8, BitVec.ofNat 8 (q.toNat / 256), BitVec.ofNat 8 q.toNat]] }

/-! ## Alarm mapper (44_alarm.md) -/

/-- ALM.MAP (R125): BadTarget for selector 00; the Alarm 1 block of four bytes for 01; the Alarm 2 block of three and
a pad for 10, and for 11 after bit 0 is cleared. A field above 99 has a free BCD part (R122). -/
def Obligations.AlmMapGivesTheRegisterBlock : Prop :=
  ∀ (mode sec min hour dow day : Byte) (s : State),
    let M := mode.getLsbD
    let dv := if M 3 then dow else day
    encode (.almMap mode sec min hour dow day) = some [0x30#8, mode, sec, min, hour, dow, day] ∧
    (mode.toNat % 4 = 0 →
      exec (.almMap mode sec min hour dow day) s = .next { s with responses := s.responses ++ [[0x02#8]] }) ∧
    (mode.toNat % 4 = 1 →
      ∃ b0 b1 b2 b3 d,
        IsFieldByte sec (M 7) b0 ∧ IsFieldByte min (M 6) b1 ∧ IsFieldByte hour (M 5) b2 ∧ IsDayByte dv (M 4) (M 3) b3 ∧
        (sec.toNat ≤ 99 → min.toNat ≤ 99 → hour.toNat ≤ 99 → dv.toNat ≤ 99 → d = s.draws) ∧
        exec (.almMap mode sec min hour dow day) s =
          .next { s with responses := s.responses ++ [[0x00#8, mode, 0x01#8, 0x07#8, 0x04#8, b0, b1, b2, b3]], draws := d }) ∧
    (2 ≤ mode.toNat % 4 →
      ∃ b0 b1 b2 d,
        IsFieldByte min (M 6) b0 ∧ IsFieldByte hour (M 5) b1 ∧ IsDayByte dv (M 4) (M 3) b2 ∧
        (min.toNat ≤ 99 → hour.toNat ≤ 99 → dv.toNat ≤ 99 → d = s.draws) ∧
        exec (.almMap mode sec min hour dow day) s =
          .next { s with responses := s.responses ++ [[0x00#8, if mode.toNat % 4 = 3 then mode &&& 0xFE#8 else mode,
                    0x02#8, 0x0B#8, 0x03#8, b0, b1, b2, 0x00#8]], draws := d })

/-- Every field above 99 takes a drawn byte, whatever byte is drawn, with its mask bit (and DY in the day byte) put on it:
each of the six fields of TIME.ENC, the four of Alarm 1 and the three of Alarm 2, alone or together (R122, I1). The fields
in range are as in AlmMapGivesTheRegisterBlock and TimeEncGivesTheTimeBlock and take none. That several draws of one command
go to its fields in payload order is the model's own choice (log entry 12). -/
def Obligations.OutOfRangeFieldTakesTheDraw : Prop :=
  ∀ (mode sec min hour dow day month yoff : Byte) (s : State),
    let M := mode.getLsbD
    let bs := s.draws.bcdEncOor
    let dow' := if dow = 0#8 then 1#8 else dow
    let dv := if M 3 then dow else day
    (outOfRange [sec, min, hour, dow', day, month] ≤ bs.length →
      ∃ t0 t1 t2 t3 t4 t5, fieldParts [sec, min, hour, dow', day, month] bs = [t0, t1, t2, t3, t4, t5] ∧
        exec (.timeEnc sec min hour dow day month yoff) s =
          .next { s with responses := s.responses ++ [[0x00#8, t0, t1, t2, t3, t4, t5, bcdValue (yoff.toNat % 100)]],
                         draws := s.draws.afterOor (outOfRange [sec, min, hour, dow', day, month]) }) ∧
    (mode.toNat % 4 = 1 → outOfRange [sec, min, hour, dv] ≤ bs.length →
      ∃ b0 b1 b2 b3, fieldParts [sec, min, hour, dv] bs = [b0, b1, b2, b3] ∧
        exec (.almMap mode sec min hour dow day) s =
          .next { s with responses := s.responses ++
                    [[0x00#8, mode, 0x01#8, 0x07#8, 0x04#8, b0 ||| maskBit (M 7), b1 ||| maskBit (M 6),
                      b2 ||| maskBit (M 5), b3 ||| maskBit (M 4) ||| dyBit (M 3)]],
                         draws := s.draws.afterOor (outOfRange [sec, min, hour, dv]) }) ∧
    (2 ≤ mode.toNat % 4 → outOfRange [min, hour, dv] ≤ bs.length →
      ∃ b0 b1 b2, fieldParts [min, hour, dv] bs = [b0, b1, b2] ∧
        exec (.almMap mode sec min hour dow day) s =
          .next { s with responses := s.responses ++
                    [[0x00#8, if mode.toNat % 4 = 3 then mode &&& 0xFE#8 else mode, 0x02#8, 0x0B#8, 0x03#8,
                      b0 ||| maskBit (M 6), b1 ||| maskBit (M 5), b2 ||| maskBit (M 4) ||| dyBit (M 3), 0x00#8]],
                         draws := s.draws.afterOor (outOfRange [min, hour, dv]) })

/-- ALM.CTL (R126): BadTarget for selector 00; otherwise ctrl with the selected alarm's enable bit and the global
interrupt-output bit set, no bit cleared. -/
def Obligations.AlmCtlSetsTheEnableBits : Prop :=
  ∀ (mode ctrl : Byte) (s : State),
    encode (.almCtl mode ctrl) = some [0x32#8, mode, ctrl] ∧
    exec (.almCtl mode ctrl) s = .next { s with responses := s.responses ++
      [if mode.toNat % 4 = 0 then [0x02#8]
       else if mode.toNat % 4 = 1 then [0x00#8, ctrl ||| 0x05#8]
       else [0x00#8, ctrl ||| 0x06#8]] }

/-- ALM.DEC (R127's pseudocode): the mode from the mask and DY bits of the register bytes, and the values below them. -/
def Obligations.AlmDecReadsTheRegisterBlock : Prop :=
  ∀ (sel r0 r1 r2 r3 : Byte) (s : State),
    encode (.almDec sel r0 r1 r2 r3) = some [0x31#8, sel, r0, r1, r2, r3] ∧
    (sel = 0x01#8 →
      ∃ mode : Byte,
        (mode.getLsbD 7 = r0.getLsbD 7 ∧ mode.getLsbD 6 = r1.getLsbD 7 ∧ mode.getLsbD 5 = r2.getLsbD 7 ∧
         mode.getLsbD 4 = r3.getLsbD 7 ∧ mode.getLsbD 3 = r3.getLsbD 6 ∧ mode.toNat % 8 = 1) ∧
        exec (.almDec sel r0 r1 r2 r3) s = .next { s with responses := s.responses ++
          [[0x00#8, mode, BitVec.ofNat 8 (unbcdValue (r0.toNat % 128)), BitVec.ofNat 8 (unbcdValue (r1.toNat % 128)),
            BitVec.ofNat 8 (hourValue r2.toNat), BitVec.ofNat 8 (unbcdValue (r3.toNat % 64))]] }) ∧
    (sel = 0x02#8 →
      ∃ mode : Byte,
        (mode.getLsbD 7 = false ∧ mode.getLsbD 6 = r0.getLsbD 7 ∧ mode.getLsbD 5 = r1.getLsbD 7 ∧
         mode.getLsbD 4 = r2.getLsbD 7 ∧ mode.getLsbD 3 = r2.getLsbD 6 ∧ mode.toNat % 8 = 2) ∧
        exec (.almDec sel r0 r1 r2 r3) s = .next { s with responses := s.responses ++
          [[0x00#8, mode, 0x00#8, BitVec.ofNat 8 (unbcdValue (r0.toNat % 128)),
            BitVec.ofNat 8 (hourValue r1.toNat), BitVec.ofNat 8 (unbcdValue (r2.toNat % 64))]] }) ∧
    (sel ≠ 0x01#8 → sel ≠ 0x02#8 →
      exec (.almDec sel r0 r1 r2 r3) s = .next { s with responses := s.responses ++ [[0x02#8]] })

/-- The alarm round trip, which R127 marks as derived: what ALM.MAP wrote, ALM.DEC reads back, but for mode bit 2 and,
for Alarm 2, the seconds and M1. -/
def Obligations.AlarmBlockRoundTrips : Prop :=
  ∀ (mode sec min hour dow day : Byte) (s s' : State),
    let dv := if mode.getLsbD 3 then dow else day
    mode.toNat % 4 ≠ 0 → sec.toNat ≤ 59 → min.toNat ≤ 59 → hour.toNat ≤ 23 → dv.toNat ≤ 39 →
    ∃ eff target addr count r0 r1 r2 r3 : Byte,
      exec (.almMap mode sec min hour dow day) s =
        .next { s with responses := s.responses ++ [[0x00#8, eff, target, addr, count, r0, r1, r2, r3]] } ∧
      exec (.almDec target r0 r1 r2 r3) s' = .next { s' with responses := s'.responses ++
        [if mode.toNat % 4 = 1 then [0x00#8, eff &&& 0xFB#8, sec, min, hour, dv]
         else [0x00#8, eff &&& 0x7B#8, 0x00#8, min, hour, dv]] }

/-- The status transforms (R128, R129, R130): STAT.ALM keeps bits 0 and 1, STAT.OSF gives bit 7, STAT.CLR clears
exactly the bits of m. -/
def Obligations.StatusTransforms : Prop :=
  ∀ (st m : Byte) (s : State),
    encode (.statAlm st) = some [0x38#8, st] ∧ encode (.statOsf st) = some [0x39#8, st] ∧
    encode (.statClr st m) = some [0x3A#8, st, m] ∧
    exec (.statAlm st) s = .next { s with responses := s.responses ++ [[0x00#8, BitVec.ofNat 8 (st.toNat % 4)]] } ∧
    exec (.statOsf st) s = .next { s with responses := s.responses ++ [[0x00#8, BitVec.ofNat 8 (st.toNat / 128)]] } ∧
    ∃ r : Byte, (∀ k, k < 8 → r.getLsbD k = (st.getLsbD k && !m.getLsbD k)) ∧
      exec (.statClr st m) s = .next { s with responses := s.responses ++ [[0x00#8, r]] }

/-! ## Time-block mapper (45_time_block.md) -/

/-- TIME.ENC (R150): seven BCD bytes, a day of week of 0 as 1, the year offset mod 100; a field above 99 is a free
byte. -/
def Obligations.TimeEncGivesTheTimeBlock : Prop :=
  ∀ (sec min hour dow day month yoff : Byte) (s : State),
    let dow' := if dow = 0#8 then 1#8 else dow
    encode (.timeEnc sec min hour dow day month yoff) = some [0x40#8, sec, min, hour, dow, day, month, yoff] ∧
    ∃ t0 t1 t2 t3 t4 t5 d,
      IsFieldByte sec false t0 ∧ IsFieldByte min false t1 ∧ IsFieldByte hour false t2 ∧ IsFieldByte dow' false t3 ∧
      IsFieldByte day false t4 ∧ IsFieldByte month false t5 ∧
      (sec.toNat ≤ 99 → min.toNat ≤ 99 → hour.toNat ≤ 99 → dow.toNat ≤ 99 → day.toNat ≤ 99 → month.toNat ≤ 99 →
        d = s.draws) ∧
      exec (.timeEnc sec min hour dow day month yoff) s =
        .next { s with responses := s.responses ++ [[0x00#8, t0, t1, t2, t3, t4, t5, bcdValue (yoff.toNat % 100)]],
                       draws := d }

/-- TIME.DEC (R151, R152): the fields by value, the 12-hour form with the inverted AM/PM convention, the century bit
adding 100, the year offset in 16 bits. -/
def Obligations.TimeDecReadsTheTimeBlock : Prop :=
  ∀ (t0 t1 t2 t3 t4 t5 t6 : Byte) (s : State),
    let y := (if t5.toNat / 128 = 1 then 100 else 0) + unbcdValue t6.toNat
    encode (.timeDec t0 t1 t2 t3 t4 t5 t6) = some [0x41#8, t0, t1, t2, t3, t4, t5, t6] ∧
    exec (.timeDec t0 t1 t2 t3 t4 t5 t6) s = .next { s with responses := s.responses ++
      [[0x00#8, BitVec.ofNat 8 (unbcdValue t0.toNat), BitVec.ofNat 8 (unbcdValue t1.toNat),
        BitVec.ofNat 8 (hourValue t2.toNat), BitVec.ofNat 8 (unbcdValue t3.toNat), BitVec.ofNat 8 (unbcdValue t4.toNat),
        BitVec.ofNat 8 (unbcdValue (t5.toNat % 128)), BitVec.ofNat 8 (y / 256), BitVec.ofNat 8 y]] }

/-- The time round trip R153(a), which the spec marks as derived: a well-formed block of 2000-2099 is decoded and
encoded back to itself. -/
def Obligations.TimeBlockRoundTrips : Prop :=
  ∀ (t0 t1 t2 t3 t4 t5 t6 : Byte) (s s' : State),
    (∀ t ∈ [t0, t1, t2, t3, t4, t5, t6], validBcd t = true) → t2.toNat < 0x40 → t3 ≠ 0x00#8 → t5.getLsbD 7 = false →
    ∃ sec min hour dow day month yHi yLo : Byte,
      exec (.timeDec t0 t1 t2 t3 t4 t5 t6) s =
        .next { s with responses := s.responses ++ [[0x00#8, sec, min, hour, dow, day, month, yHi, yLo]] } ∧
      exec (.timeEnc sec min hour dow day month yLo) s' =
        .next { s' with responses := s'.responses ++ [[0x00#8, t0, t1, t2, t3, t4, t5, t6]] }

/-- The time round trip R153(b), which the spec marks as derived: fields in its ranges are encoded and decoded back,
a day of week of 0 as 1, a year offset of 100..199 without its century. -/
def Obligations.TimeFieldsRoundTrip : Prop :=
  ∀ (sec min hour dow day month yoff : Byte) (s s' : State),
    sec.toNat ≤ 99 → min.toNat ≤ 99 → hour.toNat ≤ 39 → dow.toNat ≤ 99 → day.toNat ≤ 99 → month.toNat ≤ 79 →
    yoff.toNat ≤ 199 →
    ∃ t0 t1 t2 t3 t4 t5 t6 : Byte,
      exec (.timeEnc sec min hour dow day month yoff) s =
        .next { s with responses := s.responses ++ [[0x00#8, t0, t1, t2, t3, t4, t5, t6]] } ∧
      exec (.timeDec t0 t1 t2 t3 t4 t5 t6) s' = .next { s' with responses := s'.responses ++
        [[0x00#8, sec, min, hour, if dow = 0#8 then 1#8 else dow, day, month, 0x00#8,
          if yoff.toNat < 100 then yoff else yoff - 100#8]] }

/-! ## Memory (20_memory.md) -/

/-- The admitted accesses (R42): 1 to 8 bytes, all in 0x00..0x0F or in 0x11..0x12; every other RD or WR raises
BadAddress and changes nothing but the mark. -/
def Obligations.AdmittedAccesses : Prop :=
  (∀ a n : Nat, admitted a n = true ↔
    1 ≤ n ∧ n ≤ 8 ∧ ((a + n ≤ 0x10) ∨ (0x11 ≤ a ∧ a + n ≤ 0x13))) ∧
  ∀ (a x n : Nat) (s : State), admitted a n = false → x + n ≤ 32 → 1 ≤ n → n ≤ 8 → a ≤ 255 →
    exec (.rd x a n) s = .next { s with mark := .fault (.badAddress a n) } ∧
    exec (.wr a x n) s = .next { s with mark := .fault (.badAddress a n) }

/-- MemRead and MemWrite (R44, R45): byte k of a read is the byte at a+k; a write puts byte k at a+k exactly as given,
leaves every other address alone, and what was written is what is read. -/
def Obligations.MemReadAndMemWrite : Prop :=
  ∀ (m : Memory) (a n : Nat) (v : List Byte),
    (m.readN a n).length = n ∧ (∀ k, k < n → (m.readN a n)[k]? = some (m.read (a + k))) ∧
    (m.writeN a v).readN a v.length = v ∧
    (∀ b, b < a ∨ a + v.length ≤ b → (m.writeN a v).read b = m.read b) ∧
    (m.wf → admitted a v.length = true → (m.writeN a v).wf)

/-- The device agent (R52): a device step keeps 0x07..0x0E and never clears A1F, A2F or OSF, and every change within
those bounds is one device step; before a statement it takes whatever list of steps is drawn, and it changes nothing
but the register image. -/
def Obligations.DeviceStepsAreExactlyTheAllowedOnes : Prop :=
  (∀ (m : Memory) (d : DeviceStep), m.wf → (m.deviceStep d).wf ∧ DeviceMay m (m.deviceStep d)) ∧
  (∀ m m' : Memory, m.wf → m'.wf → DeviceMay m m' → ∃ d, m' = m.deviceStep d) ∧
  (∀ (s : State) (ds : List DeviceStep) (q : List (List DeviceStep)), s.draws.deviceStep = ds :: q →
    ∃ d, deviceTurn s = { s with ri := ds.foldl Memory.deviceStep s.ri, draws := d })

/-! ## Harness statements (48_harness.md) -/

/-- RD (R172): BadAddress if the access is not admitted; otherwise the drawn outcome, where a failed read changes no
variable and a read that does not fail gives one snapshot. -/
def Obligations.RdReadsOneSnapshot : Prop :=
  ∀ (xd a n : Nat) (s : State), xd + n ≤ 32 → 1 ≤ n → n ≤ 8 → a ≤ 255 →
    (admitted a n = false → exec (.rd xd a n) s = .next { s with mark := .fault (.badAddress a n) }) ∧
    (admitted a n = true → s.draws.nextBus.1.fail = true →
      exec (.rd xd a n) s = .next { s with ok := some false, pc := s.pc + 1, draws := s.draws.nextBus.2 }) ∧
    (admitted a n = true → s.draws.nextBus.1.fail = false →
      ∃ t, exec (.rd xd a n) s = .next t ∧
        t = { s with x := t.x, ok := some true, pc := s.pc + 1, draws := s.draws.nextBus.2 } ∧
        (∀ k, k < n → t.getVar (xd + k) = some (s.ri.read (a + k))) ∧
        (∀ j, j < xd ∨ xd + n ≤ j → t.getVar j = s.getVar j))

/-- WR (R173): BadAddress first, then UnwrittenVar of the lowest unwritten source; otherwise the drawn outcome, where a
write that does not fail stores every byte as given and a failed one leaves each byte old or new, as drawn. -/
def Obligations.WrStoresOrFailsPerByte : Prop :=
  ∀ (a xs n : Nat) (s : State), xs + n ≤ 32 → 1 ≤ n → n ≤ 8 → a ≤ 255 →
    (admitted a n = false → exec (.wr a xs n) s = .next { s with mark := .fault (.badAddress a n) }) ∧
    (admitted a n = true → ∀ i, xs ≤ i → i < xs + n → (∀ j, xs ≤ j → j < i → s.getVar j ≠ none) → s.getVar i = none →
      exec (.wr a xs n) s = .next { s with mark := .fault (.unwrittenVar (.x i)) }) ∧
    (admitted a n = true → (∀ k, k < n → s.getVar (xs + k) ≠ none) →
      ∃ t, exec (.wr a xs n) s = .next t ∧
        t = { s with ri := t.ri, ok := some (!s.draws.nextBus.1.fail), pc := s.pc + 1, draws := s.draws.nextBus.2 } ∧
        (∀ b, b < a ∨ a + n ≤ b → t.ri.read b = s.ri.read b) ∧
        ∀ k, k < n →
          if s.draws.nextBus.1.fail = true ∧ s.draws.nextBus.1.reached.getLsbD k = false then
            t.ri.read (a + k) = s.ri.read (a + k)
          else some (t.ri.read (a + k)) = s.getVar (xs + k))

/-- MOV and MOVI (R174, R175): the destination takes the value and every other variable is as before; MOV of an
unwritten variable faults. -/
def Obligations.MovAndMoviSetOneVariable : Prop :=
  ∀ (xd xs imm : Nat) (s : State), xd < 32 → xs < 32 → imm ≤ 255 →
    (s.getVar xs = none → exec (.mov xd xs) s = .next { s with mark := .fault (.unwrittenVar (.x xs)) }) ∧
    (∀ v, s.getVar xs = some v →
      ∃ t, exec (.mov xd xs) s = .next t ∧ t = { s with x := t.x, pc := s.pc + 1 } ∧ t.getVar xd = some v ∧
        ∀ j, j ≠ xd → t.getVar j = s.getVar j) ∧
    (∃ t, exec (.movi xd imm) s = .next t ∧ t = { s with x := t.x, pc := s.pc + 1 } ∧
      t.getVar xd = some (BitVec.ofNat 8 imm) ∧ ∀ j, j ≠ xd → t.getVar j = s.getVar j)

/-- OP (R176, R208): UnwrittenVar of the first unwritten source; otherwise the sources are the frame's operand bytes, the
block's response to that frame is the one it gives as a command, its payload goes to consecutive variables, and an error
status is CmdError. The block's response is shown as the step that answers the same frame from outside; that this step
answers it in every state, also where a statement stands at pc, is the model's own choice (log entry 6). -/
def Obligations.OpRunsTheBlockCommand : Prop :=
  ∀ (m : Cmd) (xd : Nat) (xs : List Nat) (s : State),
    xd + m.payloadLen ≤ 32 → xs.length = m.operandLen → (∀ j ∈ xs, j < 32) →
    (∀ pre j post, xs = pre ++ j :: post → (∀ i ∈ pre, s.getVar i ≠ none) → s.getVar j = none →
      exec (.op m xd xs) s = .next { s with mark := .fault (.unwrittenVar (.x j)) }) ∧
    (∀ v : List Byte, xs.map s.getVar = v.map some →
      ∃ r d, step { s with input := m.opc :: v } =
          .next { s with input := [], responses := s.responses ++ [r], draws := d } ∧
        ((∃ p t, r = 0x00#8 :: p ∧ p.length = m.payloadLen ∧ exec (.op m xd xs) s = .next t ∧
            t = { s with x := t.x, pc := s.pc + 1, draws := d } ∧
            (∀ k, k < p.length → t.getVar (xd + k) = p[k]?) ∧
            ∀ j, j < xd ∨ xd + p.length ≤ j → t.getVar j = s.getVar j) ∨
         (r = [0x02#8] ∧ exec (.op m xd xs) s = .next { s with mark := .fault (.cmdError m 0x02#8) })))

/-- OP completes: with every source written, a command that does not answer BadTarget (a mode with a target for ALM.MAP
and ALM.CTL, a selector 0x01 or 0x02 for ALM.DEC, anything for the other nine) changes variables, pc and draws alone. -/
def Obligations.OpCompletesWithoutBadTarget : Prop :=
  ∀ (m : Cmd) (xd : Nat) (xs : List Nat) (v : List Byte) (s : State),
    xd + m.payloadLen ≤ 32 → xs.length = m.operandLen → (∀ j ∈ xs, j < 32) → xs.map s.getVar = v.map some →
    (m = .almMap ∨ m = .almCtl → ∀ b, v.head? = some b → b.toNat % 4 ≠ 0) →
    (m = .almDec → v.head? = some 0x01#8 ∨ v.head? = some 0x02#8) →
    ∃ t, exec (.op m xd xs) s = .next t ∧ t = { s with x := t.x, pc := s.pc + 1, draws := t.draws } ∧
      ∀ j, xd ≤ j → j < xd + m.payloadLen → t.getVar j ≠ none

/-- BEQZ and BNEZ (R177, R178): pc goes to the label's statement or to the next one by the variable's value, and nothing
else changes; an unwritten variable faults. -/
def Obligations.ZeroBranchesFollowTheVariable : Prop :=
  ∀ (xs : Nat) (l : Label) (k : Nat) (s : State),
    xs < 32 → (s.program.labels.map Prod.fst).Nodup → (l, k) ∈ s.program.labels →
    (s.getVar xs = none →
      exec (.beqz xs l) s = .next { s with mark := .fault (.unwrittenVar (.x xs)) } ∧
      exec (.bnez xs l) s = .next { s with mark := .fault (.unwrittenVar (.x xs)) }) ∧
    ∀ v, s.getVar xs = some v →
      exec (.beqz xs l) s = .next { s with pc := if v = 0#8 then k else s.pc + 1 } ∧
      exec (.bnez xs l) s = .next { s with pc := if v = 0#8 then s.pc + 1 else k }

/-- BOK and BNOK (R179, R180): the same by the OK flag. -/
def Obligations.OkBranchesFollowTheFlag : Prop :=
  ∀ (l : Label) (k : Nat) (s : State), (s.program.labels.map Prod.fst).Nodup → (l, k) ∈ s.program.labels →
    (s.ok = none →
      exec (.bok l) s = .next { s with mark := .fault (.unwrittenVar .ok) } ∧
      exec (.bnok l) s = .next { s with mark := .fault (.unwrittenVar .ok) }) ∧
    ∀ b, s.ok = some b →
      exec (.bok l) s = .next { s with pc := if b then k else s.pc + 1 } ∧
      exec (.bnok l) s = .next { s with pc := if b then s.pc + 1 else k }

/-- JMP (R181) sets pc to the label's statement, and HALT (R182) sets the mark to halted and leaves pc. -/
def Obligations.JmpAndHalt : Prop :=
  (∀ (l : Label) (k : Nat) (s : State), (s.program.labels.map Prod.fst).Nodup → (l, k) ∈ s.program.labels →
    exec (.jmp l) s = .next { s with pc := k }) ∧
  ∀ s : State, exec .halt s = .next { s with mark := .halted }

/-! ## Faults (60_exceptions.md) -/

/-- CmdError (R208): an OP that records it records its own mnemonic and status 0x02, and names an alarm command. -/
def Obligations.CmdErrorIsOnlyBadTarget : Prop :=
  ∀ (i : Instr) (s t : State) (m : Cmd) (st : Byte), s.mark = .running → exec i s = .next t →
    t.mark = .fault (.cmdError m st) →
    (∃ xd xs, i = .op m xd xs) ∧ st = 0x02#8 ∧ (m = .almMap ∨ m = .almDec ∨ m = .almCtl)

/-- Fault entry (R210): for every instruction, a fault sets the mark and changes nothing else, and in a step the device's
turn before it still stands; a faulted state is never final, and no step leaves it: only command frames are still
answered. -/
def Obligations.FaultsArePreciseAndPermanent : Prop :=
  (∀ (i : Instr) (s t : State) (r : FaultReason), s.mark = .running → exec i s = .next t → t.mark = .fault r →
    t = { s with mark := .fault r }) ∧
  (∀ (s t : State) (r : FaultReason), s.mark = .running → step s = .next t → t.mark = .fault r →
    t = { s with ri := s.ri.deviceSteps s.draws.nextDevice.1, draws := s.draws.nextDevice.2, mark := .fault r }) ∧
  (∀ (s : State) (r : FaultReason), s.mark = .fault r → ¬ s.Final) ∧
  (∀ (s t : State) (r : FaultReason), s.mark = .fault r → step s = .next t →
    t = { s with input := t.input, responses := t.responses, draws := t.draws })

/-- An ended run has no harness step (R171, R210): with no frame pending the machine's step answers no next state. The names
of these outcomes are the model's own (log entry 11). -/
def Obligations.EndedRunHasNoHarnessStep : Prop :=
  ∀ s : State, decode s.input = .error .incomplete →
    (s.mark = .halted → step s = .fault .runHalted) ∧
    ∀ r, s.mark = .fault r → step s = .fault (.runFaulted r)

/-- Priorities (R211): BadAddress before UnwrittenVar in WR, UnwrittenVar before CmdError in OP, UnwrittenVar in MOV
and the branches, NoHalt before a statement is fetched; and a bus failure is not a fault. -/
def Obligations.FaultPriorities : Prop :=
  (∀ (a x n : Nat) (s : State), x + n ≤ 32 → 1 ≤ n → n ≤ 8 → a ≤ 255 → admitted a n = false →
    exec (.rd x a n) s = .next { s with mark := .fault (.badAddress a n) } ∧
    exec (.wr a x n) s = .next { s with mark := .fault (.badAddress a n) }) ∧
  (∀ (a x n i : Nat) (s : State), x + n ≤ 32 → admitted a n = true → a ≤ 255 → x ≤ i → i < x + n →
    (∀ j, x ≤ j → j < i → s.getVar j ≠ none) → s.getVar i = none →
    exec (.wr a x n) s = .next { s with mark := .fault (.unwrittenVar (.x i)) }) ∧
  (∀ (m : Cmd) (xd : Nat) (pre post : List Nat) (j : Nat) (s : State), xd + m.payloadLen ≤ 32 →
    (pre ++ j :: post).length = m.operandLen → (∀ i ∈ pre ++ j :: post, i < 32) →
    (∀ i ∈ pre, s.getVar i ≠ none) → s.getVar j = none →
    exec (.op m xd (pre ++ j :: post)) s = .next { s with mark := .fault (.unwrittenVar (.x j)) }) ∧
  (∀ (xd xs : Nat) (l : Label) (k : Nat) (s : State), xd < 32 → xs < 32 → (l, k) ∈ s.program.labels →
    (s.getVar xs = none → ∀ i ∈ [Instr.mov xd xs, .beqz xs l, .bnez xs l],
      exec i s = .next { s with mark := .fault (.unwrittenVar (.x xs)) }) ∧
    (s.ok = none → ∀ i ∈ [Instr.bok l, .bnok l], exec i s = .next { s with mark := .fault (.unwrittenVar .ok) })) ∧
  (∀ s : State, s.mark = .running → s.program.WellFormed → decode s.input = .error .incomplete →
    s.program.stmts.length ≤ s.pc → ∃ t, step s = .next t ∧ t.mark = .fault (.noHalt s.pc)) ∧
  (∀ (a x n : Nat) (s : State), x + n ≤ 32 → admitted a n = true → a ≤ 255 → (∀ k, k < n → s.getVar (x + k) ≠ none) →
    s.draws.nextBus.1.fail = true →
    (∃ t, exec (.rd x a n) s = .next t ∧ t.mark = s.mark ∧ t.ok = some false) ∧
    (∃ t, exec (.wr a x n) s = .next t ∧ t.mark = s.mark ∧ t.ok = some false))

/-! ## Reset and invariants -/

/-- The start of a run (R34): every variable and OK unwritten, pc 0, mark running, and the register image the draw
RI_INIT at every admitted address, whatever that is. -/
def Obligations.StartOfARun : Prop :=
  (∀ i, State.reset.getVar i = none) ∧ State.reset.pc = 0 ∧ State.reset.ok = none ∧ State.reset.mark = .running ∧
  ∀ a, admittedAddr a = true → State.reset.ri.read a = Config.riInit a

/-- The invariant holds at the start of a run. -/
def Obligations.ResetMeetsTheInvariant : Prop := State.reset.Inv

/-- Every step keeps the invariant, from every state that meets it: the register image lists exactly the admitted
addresses, pc is a statement of a well-formed program or one past its last, and a recorded fault has its cause. -/
def Obligations.EveryStepKeepsTheInvariant : Prop :=
  ∀ s t : State, s.Inv → step s = .next t → t.Inv

/-- The frame of every instruction: a variable changes only as a destination, a byte of the register image only as a
byte WR stores to, OK only by RD and WR, and the program and the pending frames never; a statement gives no response,
and a command changes no harness state. -/
def Obligations.InstructionFrames : Prop :=
  ∀ (i : Instr) (s t : State), exec i s = .next t →
    (∀ j, ¬ WritesVar i j → t.getVar j = s.getVar j) ∧
    (∀ a, ¬ StoresTo i a → t.ri.read a = s.ri.read a) ∧
    (¬ IsBusStatement i → t.ok = s.ok) ∧
    t.program = s.program ∧ t.input = s.input ∧
    (i.isStatement = true → t.responses = s.responses) ∧
    (i.isStatement = false → t = { s with responses := t.responses, draws := t.draws })

/-- A written variable stays written, and so does OK: no step makes one unwritten again, and no step but RD or WR gives
OK its first value (R25, R206). -/
def Obligations.WrittenStaysWritten : Prop :=
  ∀ s t : State, step s = .next t →
    (∀ j, s.getVar j ≠ none → t.getVar j ≠ none) ∧ (s.ok ≠ none → t.ok ≠ none) ∧
    (s.ok = none → t.ok ≠ none →
      ∃ i, s.program.stmts[s.pc]? = some i ∧ IsBusStatement i)

/-- The alarm and control registers change only by WR, and a status flag is cleared only by WR: whatever the step was,
if it was no WR then 0x07..0x0E read as before and A1F, A2F and OSF are still set where they were (R43, R52). -/
def Obligations.OnlyWrTouchesAlarmAndControl : Prop :=
  ∀ s t : State, step s = .next t →
    (∀ i a xs n, decode s.input = .error .incomplete → s.program.stmts[s.pc]? = some i → i ≠ .wr a xs n) →
    DeviceMay s.ri t.ri

/-- Ordering (R54): a read at addresses the device never changes returns what the latest write to them that did not fail
stored, however many device steps fall between the two. -/
def Obligations.ReadReturnsTheLatestWrite : Prop :=
  ∀ (a n xs xd : Nat) (s t u v : State) (ds : List DeviceStep),
    0x07 ≤ a → a + n ≤ 0x0F →
    exec (.wr a xs n) s = .next t → t.mark = s.mark → s.draws.nextBus.1.fail = false → s.mark = .running →
    u.ri = t.ri.deviceSteps ds → u.mark = .running → u.draws.nextBus.1.fail = false →
    exec (.rd xd a n) u = .next v →
    v.mark = .running ∧ ∀ k, k < n → v.getVar (xd + k) = s.getVar (xs + k)
end

