-- ==== Sys2Proof/Laws/Block.lean ====
section
/-! SUPPORT. The block's responses: every command has one, its payload has the length the opcode fixes (30_encoding.md
R70, R73), and the only error is BadTarget, for the alarm commands (60_exceptions.md R202 to R204). -/

namespace Sys2Proof.Machine

/-- The response shapes of a command m: R payload bytes, or BadTarget for an alarm command, which draws nothing. -/
def ResponseShape (m : Cmd) (d : Draws) (r : Response × Draws) : Prop :=
  (∃ p, r.1 = .ok p ∧ p.length = m.payloadLen) ∨
  (r = (.badTarget, d) ∧ (m = .almMap ∨ m = .almDec ∨ m = .almCtl))

/-- Every command, on every operand byte, has a response of its shape. -/
theorem respondTo_shape {m : Cmd} {ops : List Byte} {i : Instr} (h : m.assemble ops = some i) (d : Draws) :
    ∃ r, respondTo i d = some r ∧ ResponseShape m d r := by
  unfold Cmd.assemble at h
  split at h <;> first
    | (cases h; done)
    | (cases h
       refine ⟨_, rfl, ?_⟩
       first
         | exact .inl ⟨_, rfl, rfl⟩
         | (simp only [dowResponse]; split <;> exact .inl ⟨_, rfl, rfl⟩)
         | (simp only [almMapResponse]
            split
            · exact .inr ⟨rfl, .inl rfl⟩
            · split <;> exact .inl ⟨_, rfl, rfl⟩)
         | (simp only [almCtlResponse]
            split
            · exact .inr ⟨rfl, .inr (.inr rfl)⟩
            · exact .inl ⟨_, rfl, rfl⟩)
         | (simp only [almDecResponse]
            split
            · exact .inl ⟨_, rfl, rfl⟩
            · split
              · exact .inl ⟨_, rfl, rfl⟩
              · exact .inr ⟨rfl, .inr (.inl rfl)⟩))

/-- Block(frame) for a frame of the right length is the response to the instruction it holds (R176). -/
theorem blockResponse_cmd {m : Cmd} {ops : List Byte} {i : Instr} (h : m.assemble ops = some i) (d : Draws) :
    blockResponse (m.opc :: ops) d = respondTo i d := by
  have := decode_cmd (rest := []) h
  simp only [List.append_nil] at this
  simp [blockResponse, this]

/-- Block(frame) for a frame of the right length always has a response, of the command's shape. -/
theorem blockResponse_shape {m : Cmd} {ops : List Byte} (h : ops.length = m.operandLen) (d : Draws) :
    ∃ r, blockResponse (m.opc :: ops) d = some r ∧ ResponseShape m d r := by
  obtain ⟨i, hi⟩ := Cmd.assemble_isSome h
  rw [blockResponse_cmd hi]
  exact respondTo_shape hi d

end Sys2Proof.Machine
end

