-- ==== Sys2Proof/Laws/Memory.lean ====
section
/-! SUPPORT. The register image: a read after a write (20_memory.md R44, R45), what every memory operation leaves alone,
and that every memory operation at admitted addresses keeps the canonical form. -/

namespace Sys2Proof.Machine

/-! ## The addresses -/

theorem admittedAddrs_eq :
    admittedAddrs = [0, 1, 2, 3, 4, 5, 6, 7, 8, 9, 10, 11, 12, 13, 14, 15, 17, 18] := by decide

theorem mem_admittedAddrs {a : Nat} : a ∈ admittedAddrs ↔ admittedAddr a = true := by
  simp only [admittedAddrs, List.mem_filter, List.mem_range, and_iff_right_iff_imp, admittedAddr]
  intro h; simp at h; omega

/-- An admitted access in terms of its length and of each address (R42). -/
theorem admitted_iff {a n : Nat} :
    admitted a n = true ↔ (1 ≤ n ∧ n ≤ 8) ∧ ∀ k, k < n → admittedAddr (a + k) = true := by
  simp [admitted, List.all_eq_true]

namespace Memory

/-! ## Read after write -/

/-- A byte written is the byte read there; every other address reads as before. -/
theorem read_write (m : Memory) (a b : Nat) (v : Byte) :
    (m.write a v).read b = if b = a then v else m.read b := by
  induction m with
  | nil => simp [write, read]
  | cons c m ih =>
    obtain ⟨x, w⟩ := c
    simp only [write]
    split
    · simp [read]
    · split
      · next h => subst h; simp only [read]; split <;> rfl
      · next h1 h2 =>
        simp only [read, ih]
        by_cases hb : b = x
        · subst hb; simp [show ¬ b = a from fun e => h2 e.symm]
        · simp [hb]

/-- A run of bytes: address a+k reads as byte k, every other address as before (R45). -/
theorem read_writeN (m : Memory) (a b : Nat) (vs : List Byte) :
    (m.writeN a vs).read b = if a ≤ b ∧ b < a + vs.length then vs.getD (b - a) 0#8 else m.read b := by
  induction vs generalizing m a with
  | nil => simp [writeN]
  | cons v vs ih =>
    rw [writeN, ih, read_write]
    by_cases h1 : b = a
    · subst h1; simp
    · by_cases h2 : a + 1 ≤ b ∧ b < a + 1 + vs.length
      · have h3 : a ≤ b ∧ b < a + (vs.length + 1) := by omega
        have e : b - a = (b - (a + 1)) + 1 := by omega
        simp [h2, h3, e]
      · have h3 : ¬ (a ≤ b ∧ b < a + (vs.length + 1)) := by omega
        rw [if_neg h2, if_neg h1, if_neg (by simpa using h3)]

/-- A failed write: byte k is the written one where the draw says so and the old one otherwise (R46). -/
theorem read_writeSome (m : Memory) (a b : Nat) (reached : BitVec 8) (k : Nat) (vs : List Byte) :
    (m.writeSome a reached k vs).read b =
      if (a ≤ b ∧ b < a + vs.length) ∧ reached.getLsbD (k + (b - a)) = true then vs.getD (b - a) 0#8 else m.read b := by
  induction vs generalizing m a k with
  | nil => simp [writeSome]
  | cons v vs ih =>
    rw [writeSome, ih]
    by_cases h1 : b = a
    · subst h1
      have h2 : ¬ (b + 1 ≤ b ∧ b < b + 1 + vs.length) := by omega
      simp only [h2, false_and, if_false, List.length_cons, Nat.sub_self, Nat.add_zero]
      by_cases hr : reached.getLsbD k = true
      · simp [hr, read_write]
      · simp [hr]
    · have hm : (if reached.getLsbD k then m.write a v else m).read b = m.read b := by
        split
        · simp [read_write, h1]
        · rfl
      rw [hm]
      by_cases h2 : a + 1 ≤ b ∧ b < a + 1 + vs.length
      · have h3 : a ≤ b ∧ b < a + (vs.length + 1) := by omega
        have e : b - a = (b - (a + 1)) + 1 := by omega
        have e' : k + (b - a) = k + 1 + (b - (a + 1)) := by omega
        simp only [h2, h3, List.length_cons, true_and, e']
        simp [e]
      · have h3 : ¬ (a ≤ b ∧ b < a + (vs.length + 1)) := by omega
        rw [if_neg (fun h => h2 h.1), if_neg (fun h => h3 (by simpa using h.1))]

/-- Byte k of a multi-byte read comes from address a+k (R44). -/
theorem readN_getElem? (m : Memory) (a n k : Nat) :
    (m.readN a n)[k]? = if k < n then some (m.read (a + k)) else none := by
  induction n generalizing a k with
  | zero => simp [readN]
  | succ n ih =>
    cases k with
    | zero => simp [readN]
    | succ k =>
      simp only [readN, List.getElem?_cons_succ, ih, Nat.add_lt_add_iff_right]
      rw [show a + 1 + k = a + (k + 1) by omega]

@[simp] theorem readN_length (m : Memory) (a n : Nat) : (m.readN a n).length = n := by
  induction n generalizing a with
  | zero => rfl
  | succ n ih => simp [readN, ih]

/-! ## The canonical form -/

/-- A write to a listed address leaves the list of addresses as it was. -/
theorem map_fst_write {m : Memory} (hm : (m.map Prod.fst).Pairwise (· < ·)) {a : Nat} (v : Byte)
    (ha : a ∈ m.map Prod.fst) : (m.write a v).map Prod.fst = m.map Prod.fst := by
  induction m with
  | nil => simp at ha
  | cons c m ih =>
    obtain ⟨x, w⟩ := c
    simp only [List.map_cons, List.pairwise_cons, List.mem_cons] at hm ha
    simp only [write]
    split
    · next h =>
      rcases ha with ha | ha
      · omega
      · have := hm.1 a ha; omega
    · split
      · next h => subst h; rfl
      · next h1 h2 =>
        have : a ∈ m.map Prod.fst := by rcases ha with ha | ha <;> [exact absurd ha h2; exact ha]
        simp [ih hm.2 this]

/-- A write to an admitted address keeps the canonical form. -/
theorem wf_write {m : Memory} (h : m.wf) {a : Nat} (ha : admittedAddr a = true) (v : Byte) : (m.write a v).wf := by
  have hs : admittedAddrs.Pairwise (· < ·) := by decide
  unfold wf at h ⊢
  rw [map_fst_write (by rw [h]; exact hs) v (by rw [h]; exact mem_admittedAddrs.2 ha), h]

/-- MemWrite of admitted addresses keeps the canonical form. -/
theorem wf_writeN {m : Memory} (h : m.wf) {a : Nat} {vs : List Byte}
    (ha : ∀ k, k < vs.length → admittedAddr (a + k) = true) : (m.writeN a vs).wf := by
  induction vs generalizing m a with
  | nil => exact h
  | cons v vs ih =>
    refine ih (wf_write h (ha 0 (by simp)) v) fun k hk => ?_
    have := ha (k + 1) (by simp; omega)
    rwa [show a + 1 + k = a + (k + 1) by omega]

/-- A failed write of admitted addresses keeps the canonical form. -/
theorem wf_writeSome {m : Memory} (h : m.wf) {a : Nat} {reached : BitVec 8} {k : Nat} {vs : List Byte}
    (ha : ∀ j, j < vs.length → admittedAddr (a + j) = true) : (m.writeSome a reached k vs).wf := by
  induction vs generalizing m a k with
  | nil => exact h
  | cons v vs ih =>
    rw [writeSome]
    have h' : (if reached.getLsbD k then m.write a v else m).wf := by
      split
      · exact wf_write h (ha 0 (by simp)) v
      · exact h
    refine ih h' fun j hj => ?_
    have := ha (j + 1) (by simp; omega)
    rwa [show a + 1 + j = a + (j + 1) by omega]

/-- Writing the bytes that are given keeps the canonical form. -/
theorem wf_writeGiven {m : Memory} (h : m.wf) {a : Nat} {vs : List (Option Byte)}
    (ha : ∀ k, k < vs.length → admittedAddr (a + k) = true) : (m.writeGiven a vs).wf := by
  induction vs generalizing m a with
  | nil => exact h
  | cons v vs ih =>
    have hr : ∀ k, k < vs.length → admittedAddr (a + 1 + k) = true := fun k hk => by
      have := ha (k + 1) (by simp; omega)
      rwa [show a + 1 + k = a + (k + 1) by omega]
    cases v with
    | none   => exact ih h hr
    | some v => exact ih (wf_write h (ha 0 (by simp)) v) hr

/-- A device step keeps the canonical form. -/
theorem wf_deviceStep {m : Memory} (h : m.wf) (d : DeviceStep) : (m.deviceStep d).wf := by
  have range : ∀ (a n : Nat), (∀ k, k < n → admittedAddr (a + k) = true) →
      ∀ v : Vector (Option Byte) n, ∀ k, k < v.toList.length → admittedAddr (a + k) = true := fun a n ha v k hk =>
    ha k (by simpa using hk)
  refine wf_writeGiven (wf_write (wf_writeGiven h (range _ _ (by decide) d.time)) (by decide) _) (range _ _ (by decide) d.temp)

/-- Device steps keep the canonical form. -/
theorem wf_deviceSteps {m : Memory} (h : m.wf) (ds : List DeviceStep) : (m.deviceSteps ds).wf := by
  induction ds generalizing m with
  | nil => exact h
  | cons d ds ih => exact ih (wf_deviceStep h d)

/-- The register image at the start of a run is in canonical form. -/
theorem wf_initial : Memory.initial.wf := by
  simp [wf, initial, List.map_map, Function.comp_def]

/-! ## The device agent -/

/-- Writing the bytes that are given: byte k of the list where it is given, every other address as before. -/
theorem read_writeGiven (m : Memory) (a b : Nat) (vs : List (Option Byte)) :
    (m.writeGiven a vs).read b =
      if a ≤ b ∧ b < a + vs.length then ((vs[b - a]?).join).getD (m.read b) else m.read b := by
  induction vs generalizing m a with
  | nil => simp [writeGiven]
  | cons v vs ih =>
    have hne : ∀ m' : Memory, (∀ c, c ≠ a → m'.read c = m.read c) → b ≠ a →
        (m'.writeGiven (a + 1) vs).read b =
        if a ≤ b ∧ b < a + (v :: vs).length then (((v :: vs)[b - a]?).join).getD (m.read b) else m.read b := by
      intro m' hm' h1
      rw [ih, hm' b h1]
      by_cases h2 : a + 1 ≤ b ∧ b < a + 1 + vs.length
      · have h3 : a ≤ b ∧ b < a + (vs.length + 1) := by omega
        have e : b - a = (b - (a + 1)) + 1 := by omega
        simp [h2, h3, e]
      · have h3 : ¬ (a ≤ b ∧ b < a + (vs.length + 1)) := by omega
        rw [if_neg h2, if_neg (by simpa using h3)]
    have hout : ∀ m' : Memory, b = a → (m'.writeGiven (a + 1) vs).read b = m'.read b := by
      intro m' h1
      rw [ih, if_neg (by omega)]
    cases v with
    | none =>
      rw [writeGiven]
      by_cases h1 : b = a
      · rw [hout m h1]; subst h1; simp
      · exact hne m (fun _ _ => rfl) h1
    | some w =>
      rw [writeGiven]
      by_cases h1 : b = a
      · rw [hout _ h1]; subst h1; simp [read_write]
      · exact hne _ (fun c hc => by simp [read_write, hc]) h1

/-- One device step, address by address (R52). -/
theorem read_deviceStep (m : Memory) (d : DeviceStep) (b : Nat) :
    (m.deviceStep d).read b =
      if b < 7 then ((d.time[b]?).join).getD (m.read b)
      else if b = statusAddr then deviceStatus d.raise d.other (m.read b)
      else if 17 ≤ b ∧ b < 19 then ((d.temp[b - 17]?).join).getD (m.read b)
      else m.read b := by
  simp only [deviceStep, read_writeGiven, read_write, Vector.length_toList, timeAddr, tempAddr, statusAddr]
  by_cases h1 : b < 7
  · simp [h1, show ¬ (17 ≤ b ∧ b < 17 + 2) by omega, show ¬ b = 15 by omega]
  · by_cases h2 : b = 15
    · subst h2; simp
    · by_cases h3 : 17 ≤ b ∧ b < 19
      · simp [h1, h2, h3]
      · simp [h1, h2, h3]

/-! ## Equal images are equal data -/

/-- Two lists of cells with the same rising addresses that read the same at each of them are equal. -/
theorem eq_of_read {l : List Nat} (hl : l.Pairwise (· < ·)) {m m' : Memory} (h : m.map Prod.fst = l)
    (h' : m'.map Prod.fst = l) (hr : ∀ a ∈ l, m.read a = m'.read a) : m = m' := by
  induction l generalizing m m' with
  | nil => rw [List.map_eq_nil_iff.1 h, List.map_eq_nil_iff.1 h']
  | cons a l ih =>
    obtain _ | ⟨⟨x, v⟩, m⟩ := m <;> obtain _ | ⟨⟨x', v'⟩, m'⟩ := m' <;> simp at h h'
    obtain ⟨rfl, h⟩ := h
    obtain ⟨rfl, h'⟩ := h'
    rw [List.pairwise_cons] at hl
    have hv := hr x' (by simp)
    simp only [read, if_true] at hv
    rw [hv, ih hl.2 h h' fun b hb => ?_]
    have := hl.1 b hb
    simpa [read, show ¬ b = x' by omega] using hr b (by simp [hb])

/-- Well-formed images that read the same at every admitted address are equal. -/
theorem ext_of_wf {m m' : Memory} (h : m.wf) (h' : m'.wf)
    (hr : ∀ a, admittedAddr a = true → m.read a = m'.read a) : m = m' :=
  eq_of_read (by decide) h h' fun a ha => hr a (mem_admittedAddrs.1 ha)

end Memory

end Sys2Proof.Machine
end

