-- ==== Sys2Proof/Laws/State.lean ====
section
/-! SUPPORT. One lemma for each field of each state update, true by rfl, so that no later proof unfolds a record update. -/

namespace Sys2Proof.Machine.State

variable (s : State)

/-! ### setVar -/

@[simp] theorem setVar_x (i : Nat) (v : Byte) : (s.setVar i v).x = s.x.setIfInBounds i (some v) := rfl
@[simp] theorem setVar_pc (i : Nat) (v : Byte) : (s.setVar i v).pc = s.pc := rfl
@[simp] theorem setVar_ok (i : Nat) (v : Byte) : (s.setVar i v).ok = s.ok := rfl
@[simp] theorem setVar_ri (i : Nat) (v : Byte) : (s.setVar i v).ri = s.ri := rfl
@[simp] theorem setVar_mark (i : Nat) (v : Byte) : (s.setVar i v).mark = s.mark := rfl
@[simp] theorem setVar_program (i : Nat) (v : Byte) : (s.setVar i v).program = s.program := rfl
@[simp] theorem setVar_input (i : Nat) (v : Byte) : (s.setVar i v).input = s.input := rfl
@[simp] theorem setVar_responses (i : Nat) (v : Byte) : (s.setVar i v).responses = s.responses := rfl
@[simp] theorem setVar_draws (i : Nat) (v : Byte) : (s.setVar i v).draws = s.draws := rfl

/-! ### advance -/

@[simp] theorem advance_x : (s.advance).x = s.x := rfl
@[simp] theorem advance_pc : (s.advance).pc = s.pc + 1 := rfl
@[simp] theorem advance_ok : (s.advance).ok = s.ok := rfl
@[simp] theorem advance_ri : (s.advance).ri = s.ri := rfl
@[simp] theorem advance_mark : (s.advance).mark = s.mark := rfl
@[simp] theorem advance_program : (s.advance).program = s.program := rfl
@[simp] theorem advance_input : (s.advance).input = s.input := rfl
@[simp] theorem advance_responses : (s.advance).responses = s.responses := rfl
@[simp] theorem advance_draws : (s.advance).draws = s.draws := rfl
@[simp] theorem advance_getVar (j : Nat) : (s.advance).getVar j = s.getVar j := rfl

/-! ### jumpTo -/

@[simp] theorem jumpTo_x (t : Nat) : (s.jumpTo t).x = s.x := rfl
@[simp] theorem jumpTo_pc (t : Nat) : (s.jumpTo t).pc = t := rfl
@[simp] theorem jumpTo_ok (t : Nat) : (s.jumpTo t).ok = s.ok := rfl
@[simp] theorem jumpTo_ri (t : Nat) : (s.jumpTo t).ri = s.ri := rfl
@[simp] theorem jumpTo_mark (t : Nat) : (s.jumpTo t).mark = s.mark := rfl
@[simp] theorem jumpTo_program (t : Nat) : (s.jumpTo t).program = s.program := rfl
@[simp] theorem jumpTo_input (t : Nat) : (s.jumpTo t).input = s.input := rfl
@[simp] theorem jumpTo_responses (t : Nat) : (s.jumpTo t).responses = s.responses := rfl
@[simp] theorem jumpTo_draws (t : Nat) : (s.jumpTo t).draws = s.draws := rfl
@[simp] theorem jumpTo_getVar (t : Nat) (j : Nat) : (s.jumpTo t).getVar j = s.getVar j := rfl

/-! ### halt -/

@[simp] theorem halt_x : (s.halt).x = s.x := rfl
@[simp] theorem halt_pc : (s.halt).pc = s.pc := rfl
@[simp] theorem halt_ok : (s.halt).ok = s.ok := rfl
@[simp] theorem halt_ri : (s.halt).ri = s.ri := rfl
@[simp] theorem halt_mark : (s.halt).mark = .halted := rfl
@[simp] theorem halt_program : (s.halt).program = s.program := rfl
@[simp] theorem halt_input : (s.halt).input = s.input := rfl
@[simp] theorem halt_responses : (s.halt).responses = s.responses := rfl
@[simp] theorem halt_draws : (s.halt).draws = s.draws := rfl
@[simp] theorem halt_getVar (j : Nat) : (s.halt).getVar j = s.getVar j := rfl

/-! ### setRi -/

@[simp] theorem setRi_x (m : Memory) : (s.setRi m).x = s.x := rfl
@[simp] theorem setRi_pc (m : Memory) : (s.setRi m).pc = s.pc := rfl
@[simp] theorem setRi_ok (m : Memory) : (s.setRi m).ok = s.ok := rfl
@[simp] theorem setRi_ri (m : Memory) : (s.setRi m).ri = m := rfl
@[simp] theorem setRi_mark (m : Memory) : (s.setRi m).mark = s.mark := rfl
@[simp] theorem setRi_program (m : Memory) : (s.setRi m).program = s.program := rfl
@[simp] theorem setRi_input (m : Memory) : (s.setRi m).input = s.input := rfl
@[simp] theorem setRi_responses (m : Memory) : (s.setRi m).responses = s.responses := rfl
@[simp] theorem setRi_draws (m : Memory) : (s.setRi m).draws = s.draws := rfl
@[simp] theorem setRi_getVar (m : Memory) (j : Nat) : (s.setRi m).getVar j = s.getVar j := rfl

/-! ### setDraws -/

@[simp] theorem setDraws_x (d : Draws) : (s.setDraws d).x = s.x := rfl
@[simp] theorem setDraws_pc (d : Draws) : (s.setDraws d).pc = s.pc := rfl
@[simp] theorem setDraws_ok (d : Draws) : (s.setDraws d).ok = s.ok := rfl
@[simp] theorem setDraws_ri (d : Draws) : (s.setDraws d).ri = s.ri := rfl
@[simp] theorem setDraws_mark (d : Draws) : (s.setDraws d).mark = s.mark := rfl
@[simp] theorem setDraws_program (d : Draws) : (s.setDraws d).program = s.program := rfl
@[simp] theorem setDraws_input (d : Draws) : (s.setDraws d).input = s.input := rfl
@[simp] theorem setDraws_responses (d : Draws) : (s.setDraws d).responses = s.responses := rfl
@[simp] theorem setDraws_draws (d : Draws) : (s.setDraws d).draws = d := rfl
@[simp] theorem setDraws_getVar (d : Draws) (j : Nat) : (s.setDraws d).getVar j = s.getVar j := rfl

/-! ### setInput -/

@[simp] theorem setInput_x (bs : List Byte) : (s.setInput bs).x = s.x := rfl
@[simp] theorem setInput_pc (bs : List Byte) : (s.setInput bs).pc = s.pc := rfl
@[simp] theorem setInput_ok (bs : List Byte) : (s.setInput bs).ok = s.ok := rfl
@[simp] theorem setInput_ri (bs : List Byte) : (s.setInput bs).ri = s.ri := rfl
@[simp] theorem setInput_mark (bs : List Byte) : (s.setInput bs).mark = s.mark := rfl
@[simp] theorem setInput_program (bs : List Byte) : (s.setInput bs).program = s.program := rfl
@[simp] theorem setInput_input (bs : List Byte) : (s.setInput bs).input = bs := rfl
@[simp] theorem setInput_responses (bs : List Byte) : (s.setInput bs).responses = s.responses := rfl
@[simp] theorem setInput_draws (bs : List Byte) : (s.setInput bs).draws = s.draws := rfl
@[simp] theorem setInput_getVar (bs : List Byte) (j : Nat) : (s.setInput bs).getVar j = s.getVar j := rfl

/-! ### respond -/

@[simp] theorem respond_x (f : List Byte) : (s.respond f).x = s.x := rfl
@[simp] theorem respond_pc (f : List Byte) : (s.respond f).pc = s.pc := rfl
@[simp] theorem respond_ok (f : List Byte) : (s.respond f).ok = s.ok := rfl
@[simp] theorem respond_ri (f : List Byte) : (s.respond f).ri = s.ri := rfl
@[simp] theorem respond_mark (f : List Byte) : (s.respond f).mark = s.mark := rfl
@[simp] theorem respond_program (f : List Byte) : (s.respond f).program = s.program := rfl
@[simp] theorem respond_input (f : List Byte) : (s.respond f).input = s.input := rfl
@[simp] theorem respond_responses (f : List Byte) : (s.respond f).responses = s.responses ++ [f] := rfl
@[simp] theorem respond_draws (f : List Byte) : (s.respond f).draws = s.draws := rfl
@[simp] theorem respond_getVar (f : List Byte) (j : Nat) : (s.respond f).getVar j = s.getVar j := rfl

/-! ### raise -/

@[simp] theorem raise_x (r : FaultReason) : (s.raise r).x = s.x := rfl
@[simp] theorem raise_pc (r : FaultReason) : (s.raise r).pc = s.pc := rfl
@[simp] theorem raise_ok (r : FaultReason) : (s.raise r).ok = s.ok := rfl
@[simp] theorem raise_ri (r : FaultReason) : (s.raise r).ri = s.ri := rfl
@[simp] theorem raise_mark (r : FaultReason) : (s.raise r).mark = .fault r := rfl
@[simp] theorem raise_program (r : FaultReason) : (s.raise r).program = s.program := rfl
@[simp] theorem raise_input (r : FaultReason) : (s.raise r).input = s.input := rfl
@[simp] theorem raise_responses (r : FaultReason) : (s.raise r).responses = s.responses := rfl
@[simp] theorem raise_draws (r : FaultReason) : (s.raise r).draws = s.draws := rfl
@[simp] theorem raise_getVar (r : FaultReason) (j : Nat) : (s.raise r).getVar j = s.getVar j := rfl

/-! ### setOk -/

@[simp] theorem setOk_x (b : Bool) : (s.setOk b).x = s.x := rfl
@[simp] theorem setOk_pc (b : Bool) : (s.setOk b).pc = s.pc := rfl
@[simp] theorem setOk_ok (b : Bool) : (s.setOk b).ok = some b := rfl
@[simp] theorem setOk_ri (b : Bool) : (s.setOk b).ri = s.ri := rfl
@[simp] theorem setOk_mark (b : Bool) : (s.setOk b).mark = s.mark := rfl
@[simp] theorem setOk_program (b : Bool) : (s.setOk b).program = s.program := rfl
@[simp] theorem setOk_input (b : Bool) : (s.setOk b).input = s.input := rfl
@[simp] theorem setOk_responses (b : Bool) : (s.setOk b).responses = s.responses := rfl
@[simp] theorem setOk_draws (b : Bool) : (s.setOk b).draws = s.draws := rfl
@[simp] theorem setOk_getVar (b : Bool) (j : Nat) : (s.setOk b).getVar j = s.getVar j := rfl

/-! ### setVars: every field but the variables -/

@[simp] theorem setVars_pc (d : Nat) (vs : List Byte) : (s.setVars d vs).pc = s.pc := by
  induction vs generalizing s d with
  | nil => rfl
  | cons v vs ih => rw [State.setVars, ih, setVar_pc]

@[simp] theorem setVars_ok (d : Nat) (vs : List Byte) : (s.setVars d vs).ok = s.ok := by
  induction vs generalizing s d with
  | nil => rfl
  | cons v vs ih => rw [State.setVars, ih, setVar_ok]

@[simp] theorem setVars_ri (d : Nat) (vs : List Byte) : (s.setVars d vs).ri = s.ri := by
  induction vs generalizing s d with
  | nil => rfl
  | cons v vs ih => rw [State.setVars, ih, setVar_ri]

@[simp] theorem setVars_mark (d : Nat) (vs : List Byte) : (s.setVars d vs).mark = s.mark := by
  induction vs generalizing s d with
  | nil => rfl
  | cons v vs ih => rw [State.setVars, ih, setVar_mark]

@[simp] theorem setVars_program (d : Nat) (vs : List Byte) : (s.setVars d vs).program = s.program := by
  induction vs generalizing s d with
  | nil => rfl
  | cons v vs ih => rw [State.setVars, ih, setVar_program]

@[simp] theorem setVars_input (d : Nat) (vs : List Byte) : (s.setVars d vs).input = s.input := by
  induction vs generalizing s d with
  | nil => rfl
  | cons v vs ih => rw [State.setVars, ih, setVar_input]

@[simp] theorem setVars_responses (d : Nat) (vs : List Byte) : (s.setVars d vs).responses = s.responses := by
  induction vs generalizing s d with
  | nil => rfl
  | cons v vs ih => rw [State.setVars, ih, setVar_responses]

@[simp] theorem setVars_draws (d : Nat) (vs : List Byte) : (s.setVars d vs).draws = s.draws := by
  induction vs generalizing s d with
  | nil => rfl
  | cons v vs ih => rw [State.setVars, ih, setVar_draws]

/-! ### the device's turn: only the register image and the draws -/

@[simp] theorem deviceTurn_x : (deviceTurn s).x = s.x := rfl
@[simp] theorem deviceTurn_pc : (deviceTurn s).pc = s.pc := rfl
@[simp] theorem deviceTurn_ok : (deviceTurn s).ok = s.ok := rfl
@[simp] theorem deviceTurn_mark : (deviceTurn s).mark = s.mark := rfl
@[simp] theorem deviceTurn_program : (deviceTurn s).program = s.program := rfl
@[simp] theorem deviceTurn_input : (deviceTurn s).input = s.input := rfl
@[simp] theorem deviceTurn_responses : (deviceTurn s).responses = s.responses := rfl
@[simp] theorem deviceTurn_ri : (deviceTurn s).ri = s.ri.deviceSteps s.draws.nextDevice.1 := rfl
@[simp] theorem deviceTurn_draws : (deviceTurn s).draws = s.draws.nextDevice.2 := rfl
@[simp] theorem deviceTurn_getVar (j : Nat) : (deviceTurn s).getVar j = s.getVar j := rfl

end Sys2Proof.Machine.State
end

