-- ==== Sys2Proof/Laws/Vars.lean ====
section
/-! SUPPORT. The variables: what one write and a run of writes do to every variable (10_state.md R25), and what reading
a list of variables answers (60_exceptions.md R211). -/

namespace Sys2Proof.Machine.State

/-- One write: the written variable (if it exists) holds the value, every other one is as before. -/
theorem getVar_setVar (s : State) (i j : Nat) (v : Byte) :
    (s.setVar i v).getVar j = if j = i ∧ i < 32 then some v else s.getVar j := by
  simp only [getVar, setVar_x, Vector.getElem?_setIfInBounds]
  by_cases h : i = j <;> by_cases h' : i < 32
  · subst h; simp [h']
  · subst h
    simp [h']
  · simp [h, show ¬ j = i from fun e => h e.symm]
  · simp [h, show ¬ j = i from fun e => h e.symm]

/-- Writing a list of values in range: variable d+k holds value k, every other one is as before. -/
theorem getVar_setVars (s : State) (d j : Nat) (vs : List Byte) (h : d + vs.length ≤ 32) :
    (s.setVars d vs).getVar j = if d ≤ j ∧ j < d + vs.length then vs[j - d]? else s.getVar j := by
  induction vs generalizing s d with
  | nil => simp [setVars]
  | cons v vs ih =>
    simp only [List.length_cons] at h
    rw [setVars, ih _ _ (by omega), getVar_setVar]
    by_cases h1 : j = d
    · subst h1; simp; omega
    · by_cases h2 : d + 1 ≤ j ∧ j < d + 1 + vs.length
      · have e : j - d = (j - (d + 1)) + 1 := by omega
        have h3 : d ≤ j ∧ j < d + (vs.length + 1) := by omega
        simp [h2, h3, e]
      · have h3 : ¬ (d ≤ j ∧ j < d + (vs.length + 1)) := by omega
        rw [if_neg h2, if_neg (fun h => h1 h.1), if_neg (by simpa using h3)]

/-- Writing variables never un-writes one. -/
theorem getVar_setVars_ne_none (s : State) (d j : Nat) (vs : List Byte) (h : s.getVar j ≠ none) :
    (s.setVars d vs).getVar j ≠ none := by
  induction vs generalizing s d with
  | nil => exact h
  | cons v vs ih =>
    rw [setVars]
    refine ih _ _ ?_
    rw [getVar_setVar]
    split
    · simp
    · exact h

/-- Reading a list of variables succeeds with exactly their values. -/
theorem getVars_eq_ok (s : State) (is : List Nat) (vs : List Byte) :
    s.getVars is = .ok vs ↔ is.map s.getVar = vs.map some := by
  induction is generalizing vs with
  | nil => cases vs <;> simp [getVars]
  | cons i is ih =>
    rw [getVars]
    cases hi : s.getVar i with
    | none => cases vs <;> simp [hi]
    | some v =>
      cases hr : s.getVars is with
      | error e =>
        cases vs with
        | nil => simp
        | cons w ws =>
          have := (ih ws).not.1 (by simp [hr])
          simp [hi]; intro _; exact this
      | ok us =>
        cases vs with
        | nil => simp
        | cons w ws =>
          have := ih ws
          rw [hr] at this
          simp only [Except.ok.injEq, List.map_cons, hi, List.cons.injEq, Option.some.injEq] at this ⊢
          rw [this]

/-- Reading a list of variables fails at the first unwritten one. -/
theorem getVars_eq_error (s : State) (is : List Nat) (i : Nat) :
    s.getVars is = .error i ↔
      ∃ pre post, is = pre ++ i :: post ∧ (∀ j ∈ pre, s.getVar j ≠ none) ∧ s.getVar i = none := by
  induction is with
  | nil => simp [getVars]
  | cons a is ih =>
    rw [getVars]
    cases ha : s.getVar a with
    | none =>
      constructor
      · intro h; cases h; exact ⟨[], is, rfl, by simp, ha⟩
      · rintro ⟨pre, post, he, hp, hn⟩
        cases pre with
        | nil => cases he; rfl
        | cons b pre => cases he; exact absurd ha (hp _ (by simp))
    | some v =>
      have key : (∃ pre post, is = pre ++ i :: post ∧ (∀ j ∈ pre, s.getVar j ≠ none) ∧ s.getVar i = none) ↔
          (∃ pre post, a :: is = pre ++ i :: post ∧ (∀ j ∈ pre, s.getVar j ≠ none) ∧ s.getVar i = none) := by
        constructor
        · rintro ⟨pre, post, he, hp, hn⟩
          exact ⟨a :: pre, post, by simp [he], by simp [ha]; simpa using hp, hn⟩
        · rintro ⟨pre, post, he, hp, hn⟩
          cases pre with
          | nil => cases he; simp [ha] at hn
          | cons b pre => cases he; exact ⟨pre, post, rfl, fun j hj => hp j (by simp [hj]), hn⟩
      rw [← key, ← ih]
      cases s.getVars is <;> simp

/-- How many values are read. -/
theorem getVars_length {s : State} {is : List Nat} {vs : List Byte} (h : s.getVars is = .ok vs) :
    vs.length = is.length := by
  have := congrArg List.length ((getVars_eq_ok s is vs).1 h)
  simpa using this.symm

/-- A variable that reading the list stops at is one of the list and is unwritten. -/
theorem getVars_error_mem {s : State} {is : List Nat} {i : Nat} (h : s.getVars is = .error i) :
    i ∈ is ∧ s.getVar i = none := by
  obtain ⟨pre, post, he, -, hn⟩ := (getVars_eq_error s is i).1 h
  exact ⟨by simp [he], hn⟩

end Sys2Proof.Machine.State
end

