-- ==== Sys2Proof/Laws/Exec.lean ====
section
/-! SUPPORT. What an instruction can do, said once: if exec answers a next state, that state is one of these effects.
Every invariant and every frame is a case analysis of Effect, not of exec. -/

namespace Sys2Proof.Machine

/-- The effects of an instruction that answers a next state. -/
inductive Effect (i : Instr) (s : State) : State → Prop where
  /-- a block command: one response frame, and its draws are used up -/
  | respond (r : Response × Draws) (hi : i.isStatement = false) (hr : respondTo i s.draws = some r) :
      Effect i s ((s.respond r.1.frame).setDraws r.2)
  /-- fault entry (R210), with its cause -/
  | raise (r : FaultReason) (hi : i.isStatement = true) (hc : (s.raise r).MarkSound) (hn : ∀ p, r ≠ .noHalt p) :
      Effect i s (s.raise r)
  /-- RD that did not fail: variables and OK -/
  | read (xd addr n : Nat) (d : Draws) (hi : i = .rd xd addr n) (ha : admitted addr n = true) (hv : xd + n ≤ 32) :
      Effect i s ((((s.setVars xd (s.ri.readN addr n)).setOk true).setDraws d).advance)
  /-- RD that failed: OK alone -/
  | readFail (xd addr n : Nat) (d : Draws) (hi : i = .rd xd addr n) : Effect i s (((s.setOk false).setDraws d).advance)
  /-- WR: the addressed bytes and OK -/
  | write (addr xs n : Nat) (v : List Byte) (m : Memory) (b : Bool) (d : Draws) (hi : i = .wr addr xs n)
      (ha : admitted addr n = true) (hv : s.getVars (List.range' xs n) = .ok v)
      (hm : (b = true ∧ m = s.ri.writeN addr v) ∨ (b = false ∧ ∃ reached, m = s.ri.writeSome addr reached 0 v)) :
      Effect i s ((((s.setRi m).setOk b).setDraws d).advance)
  /-- MOV and MOVI: one variable -/
  | set (xd : Nat) (v : Byte) (hi : (∃ xs, i = .mov xd xs) ∨ (∃ imm, i = .movi xd imm)) (hv : xd < 32) :
      Effect i s ((s.setVar xd v).advance)
  /-- OP whose command answered OK: its payload -/
  | payload (m : Cmd) (xd : Nat) (xs : List Nat) (p : List Byte) (d : Draws) (hi : i = .op m xd xs)
      (hp : p.length = m.payloadLen) (hv : xd + p.length ≤ 32) : Effect i s (((s.setVars xd p).setDraws d).advance)
  /-- a branch that is taken -/
  | jump (l : Label) (t : Nat) (hi : i.labelUsed = some l) (ht : s.program.index? l = some t) : Effect i s (s.jumpTo t)
  /-- a branch that is not taken -/
  | pass (l : Label) (hi : i.labelUsed = some l) : Effect i s s.advance
  /-- HALT -/
  | halt (hi : i = .halt) : Effect i s s.halt

/-- A statement that ran passed every check. -/
theorem of_checked {i : Instr} {s t : State} {run : Result} (h : checked i s run = .next t) :
    i.WellFormed s.program ∧ run = .next t := by
  unfold checked at h
  split at h
  · cases h
  · next hc => exact ⟨hc, h⟩

/-- A statement that passes every check runs. -/
theorem checked_of_wellFormed {i : Instr} {s : State} {run : Result} (h : i.WellFormed s.program) : checked i s run = run := by
  unfold checked
  rw [show i.failedCheck? s.program = none from h]

theorem of_branchTo {l : Label} {s t : State} (h : branchTo l s = .next t) :
    ∃ k, s.program.index? l = some k ∧ t = s.jumpTo k := by
  unfold branchTo at h
  split at h
  · next k hk => cases h; exact ⟨k, hk, rfl⟩
  · cases h

/-- A block command, executed as a frame, gives its response. -/
theorem exec_command {i : Instr} (hi : i.isStatement = false) (s : State) :
    ∃ r, respondTo i s.draws = some r ∧ exec i s = .next ((s.respond r.1.frame).setDraws r.2) := by
  cases i <;> first | cases hi; done | exact ⟨_, rfl, rfl⟩

/-- What an instruction can do. -/
theorem exec_effect {i : Instr} {s t : State} (h : exec i s = .next t) : Effect i s t := by
  by_cases hs : i.isStatement = false
  · obtain ⟨r, hr, he⟩ := exec_command hs s
    rw [he] at h; cases h
    exact .respond r hs hr
  cases i <;> first | exact absurd rfl hs | skip
  case rd xd addr n =>
    obtain ⟨hw, h⟩ := of_checked h
    obtain ⟨-, hv, -⟩ := Instr.wellFormed_iff.1 hw
    split at h
    · next ha =>
      simp only at h
      split at h
      · cases h; exact .readFail xd addr n _ rfl
      · cases h; exact .read xd addr n _ rfl ha (Instr.varsOk_iff.1 hv).2
    · next ha => cases h; exact .raise _ rfl (by simpa [State.MarkSound] using ha) (by simp)
  case wr addr xs n =>
    obtain ⟨hw, h⟩ := of_checked h
    obtain ⟨-, hv, -⟩ := Instr.wellFormed_iff.1 hw
    have hv := (Instr.varsOk_iff.1 hv).2
    split at h
    · next ha =>
      split at h
      · next j hj =>
        cases h
        obtain ⟨hm, hn⟩ := State.getVars_error_mem hj
        refine .raise _ rfl ⟨?_, hn⟩ (by simp)
        have := List.mem_range'_1.1 hm
        show j < 32; omega
      · next v hv' =>
        simp only at h
        split at h
        · cases h; exact .write addr xs n v _ false _ rfl ha hv' (.inr ⟨rfl, _, rfl⟩)
        · cases h; exact .write addr xs n v _ true _ rfl ha hv' (.inl ⟨rfl, rfl⟩)
    · next ha => cases h; exact .raise _ rfl (by simpa [State.MarkSound] using ha) (by simp)
  case mov xd xs =>
    obtain ⟨hw, h⟩ := of_checked h
    obtain ⟨-, hv, -⟩ := Instr.wellFormed_iff.1 hw
    simp only [Instr.checkVar, Bool.and_eq_true, Instr.varsOk_iff] at hv
    split at h
    · next hn => cases h; exact .raise _ rfl ⟨hv.2.1, hn⟩ (by simp)
    · cases h; exact .set xd _ (.inl ⟨xs, rfl⟩) hv.1.1
  case movi xd imm =>
    obtain ⟨hw, h⟩ := of_checked h
    obtain ⟨-, hv, -⟩ := Instr.wellFormed_iff.1 hw
    cases h; exact .set xd _ (.inr ⟨imm, rfl⟩) (Instr.varsOk_iff.1 hv).1
  case op m xd xs =>
    obtain ⟨hw, h⟩ := of_checked h
    obtain ⟨-, hv, -, -, ha⟩ := Instr.wellFormed_iff.1 hw
    simp only [Instr.checkVar, Bool.and_eq_true, Instr.varsOk_iff, List.all_eq_true] at hv
    split at h
    · next j hj =>
      cases h
      obtain ⟨hm, hn⟩ := State.getVars_error_mem hj
      exact .raise _ rfl ⟨(hv.2 j hm).1, hn⟩ (by simp)
    · next v hv' =>
      have hl : v.length = m.operandLen := by
        rw [State.getVars_length hv']; simpa [Instr.checkArity] using ha
      obtain ⟨r, hr, hsh⟩ := blockResponse_shape hl s.draws
      rw [hr] at h
      rcases hsh with ⟨p, hp, hlen⟩ | ⟨rfl, hm⟩
      · obtain ⟨r1, r2⟩ := r
        subst hp
        cases h
        exact .payload m xd xs p _ rfl hlen (by rw [hlen]; exact hv.1.2)
      · cases h
        exact .raise _ rfl ⟨rfl, hm⟩ (by simp)
  case beqz xs label =>
    obtain ⟨hw, h⟩ := of_checked h
    obtain ⟨-, hv, -⟩ := Instr.wellFormed_iff.1 hw
    split at h
    · next hn => cases h; exact .raise _ rfl ⟨(Instr.varsOk_iff.1 hv).1, hn⟩ (by simp)
    · split at h
      · obtain ⟨k, hk, rfl⟩ := of_branchTo h; exact .jump label k rfl hk
      · cases h; exact .pass label rfl
  case bnez xs label =>
    obtain ⟨hw, h⟩ := of_checked h
    obtain ⟨-, hv, -⟩ := Instr.wellFormed_iff.1 hw
    split at h
    · next hn => cases h; exact .raise _ rfl ⟨(Instr.varsOk_iff.1 hv).1, hn⟩ (by simp)
    · split at h
      · cases h; exact .pass label rfl
      · obtain ⟨k, hk, rfl⟩ := of_branchTo h; exact .jump label k rfl hk
  case bok label =>
    obtain ⟨-, h⟩ := of_checked h
    split at h
    · next hn => cases h; exact .raise _ rfl hn (by simp)
    · obtain ⟨k, hk, rfl⟩ := of_branchTo h; exact .jump label k rfl hk
    · cases h; exact .pass label rfl
  case bnok label =>
    obtain ⟨-, h⟩ := of_checked h
    split at h
    · next hn => cases h; exact .raise _ rfl hn (by simp)
    · cases h; exact .pass label rfl
    · obtain ⟨k, hk, rfl⟩ := of_branchTo h; exact .jump label k rfl hk
  case jmp label =>
    obtain ⟨-, h⟩ := of_checked h
    obtain ⟨k, hk, rfl⟩ := of_branchTo h; exact .jump label k rfl hk
  case halt =>
    obtain ⟨-, h⟩ := of_checked (i := .halt) (s := s) (run := .next s.halt) h
    cases h; exact .halt rfl

/-! ## What a step can do -/

/-- A step that answers a next state: a frame answered by its instruction, an illegal opcode answered, a statement
executed after the device's turn, or NoHalt (30_encoding.md R71, 48_harness.md R171). -/
theorem step_cases {s t : State} (h : step s = .next t) :
    (∃ i rest, decode s.input = .ok (i, rest) ∧ exec i (s.setInput rest) = .next t) ∨
    (∃ opc, decode s.input = .error (.illegalOpcode opc) ∧
      t = ((s.setInput s.input.tail).respond [0x01#8]).setDraws s.draws) ∨
    (decode s.input = .error .incomplete ∧ s.mark = .running ∧ s.program.WellFormed ∧
      ((∃ i, s.program.stmts[s.pc]? = some i ∧ exec i (deviceTurn s) = .next t) ∨
       (s.program.stmts[s.pc]? = none ∧ t = (deviceTurn s).raise (.noHalt s.pc)))) := by
  unfold step fetch at h
  cases hd : decode s.input with
  | ok ir => rw [hd] at h; exact .inl ⟨ir.1, ir.2, rfl, h⟩
  | error e =>
    rw [hd] at h
    cases e with
    | illegalOpcode opc => cases h; exact .inr (.inl ⟨opc, rfl, rfl⟩)
    | incomplete =>
      refine .inr (.inr ⟨rfl, ?_⟩)
      simp only [fetchStatement] at h
      cases hm : s.mark with
      | halted => simp [hm] at h
      | fault r => simp [hm] at h
      | running =>
        simp only [hm] at h
        cases hp : s.program.failedCheck? with
        | some c => simp [hp] at h
        | none =>
          refine ⟨rfl, hp, ?_⟩
          simp only [hp, State.deviceTurn_program, State.deviceTurn_pc] at h
          cases hi : s.program.stmts[s.pc]? with
          | none => simp only [hi] at h; cases h; exact .inr ⟨rfl, rfl⟩
          | some i => simp only [hi] at h; exact .inl ⟨i, rfl, h⟩

end Sys2Proof.Machine
end

