-- ==== Sys2Proof/Laws/Values.lean ====
section
/-! SUPPORT. The bit formulas of the block by value: bcd, unbcd, hourdec, field bytes and the bit helpers
(41_bcd.md R90, R92, 45_time_block.md R151, 44_alarm.md R122). -/

namespace Sys2Proof.Machine

theorem bcd_eq_bcdValue {n : Nat} (h : n ≤ 99) : bcd n = bcdValue n := by
  have : ∀ n : Fin 100, bcd n = bcdValue n := by decide
  exact this ⟨n, by omega⟩

theorem unbcd_eq_unbcdValue (b : Byte) : unbcd b = unbcdValue b.toNat := by
  have := b.isLt
  simp only [unbcd, unbcdValue, BitVec.extractLsb'_toNat, Nat.shiftRight_eq_div_pow]
  omega

theorem unbcd_le (b : Byte) : unbcd b ≤ 165 := by
  rw [unbcd_eq_unbcdValue, unbcdValue]
  have := b.isLt
  omega

theorem hourdec_eq_hourValue (b : Byte) : hourdec b = hourValue b.toNat := by
  revert b; decide

/-- A field byte in range draws nothing and is its BCD form with the mask bit; above 99 it is the draw with the mask
bit (R122). -/
theorem fieldbyte_of_le {v : Byte} (h : v.toNat ≤ 99) (M : Bool) (d : Draws) :
    fieldbyte v M d = (bcdValue v.toNat ||| (if M then 0x80#8 else 0x00#8), d) := by
  simp only [fieldbyte, fb, h, if_true, bcd_eq_bcdValue h]
  cases M <;> rfl

theorem fieldbyte_of_gt {v : Byte} (h : 99 < v.toNat) (M : Bool) (d : Draws) :
    fieldbyte v M d = (d.nextOor.1 ||| (if M then 0x80#8 else 0x00#8), d.nextOor.2) := by
  simp only [fieldbyte, fb, show ¬ v.toNat ≤ 99 by omega, if_false]
  cases M <;> rfl

theorem isFieldByte_fieldbyte (v : Byte) (M : Bool) (d : Draws) : IsFieldByte v M (fieldbyte v M d).1 := by
  unfold IsFieldByte
  split
  · next h => rw [fieldbyte_of_le h]
  · next h =>
    rw [fieldbyte_of_gt (by omega)]
    intro hM; subst hM; simp

theorem daybyte_of_le {v : Byte} (h : v.toNat ≤ 99) (M DY : Bool) (d : Draws) :
    daybyte v M DY d =
      (bcdValue v.toNat ||| (if M then 0x80#8 else 0x00#8) ||| (if DY then 0x40#8 else 0x00#8), d) := by
  simp only [daybyte, fb, h, if_true, bcd_eq_bcdValue h]
  cases M <;> cases DY <;> rfl

theorem daybyte_of_gt {v : Byte} (h : 99 < v.toNat) (M DY : Bool) (d : Draws) :
    daybyte v M DY d =
      (d.nextOor.1 ||| (if M then 0x80#8 else 0x00#8) ||| (if DY then 0x40#8 else 0x00#8), d.nextOor.2) := by
  simp only [daybyte, fb, show ¬ v.toNat ≤ 99 by omega, if_false]
  cases M <;> cases DY <;> rfl

theorem isDayByte_daybyte (v : Byte) (M DY : Bool) (d : Draws) : IsDayByte v M DY (daybyte v M DY d).1 := by
  unfold IsDayByte
  split
  · next h => rw [daybyte_of_le h]
  · next h =>
    rw [daybyte_of_gt (by omega)]
    exact ⟨fun hM => by subst hM; simp, fun hD => by subst hD; simp⟩

/-! ## Target resolution (44_alarm.md R121) -/

theorem resolveMode_none_iff (mode : Byte) : resolveMode mode = none ↔ mode.toNat % 4 = 0 := by
  revert mode; decide

theorem resolveMode_one {mode : Byte} (h : mode.toNat % 4 = 1) : resolveMode mode = some (mode, .a1) := by
  revert mode; decide

theorem resolveMode_two {mode : Byte} (h : 2 ≤ mode.toNat % 4) :
    resolveMode mode = some (if mode.toNat % 4 = 3 then mode &&& 0xFE#8 else mode, .a2) := by
  revert mode; decide

/-! ## Draws: a queued draw is the one that is taken (00_scope.md R11) -/

theorem nextOor_cons {d : Draws} {b : Byte} {bs : List Byte} (h : d.bcdEncOor = b :: bs) : d.nextOor.1 = b := by
  simp [Draws.nextOor, h]

theorem nextOod_cons {d : Draws} {b : Byte} {bs : List Byte} (h : d.dowOod = b :: bs) : d.nextOod.1 = b := by
  simp [Draws.nextOod, h]

/-! ## Field bytes in sequence (44_alarm.md R122) -/

theorem fieldbyte_fst (v : Byte) (M : Bool) (d : Draws) : (fieldbyte v M d).1 = (fb v d).1 ||| maskBit M := by
  cases M <;> rfl

theorem daybyte_fst (v : Byte) (M DY : Bool) (d : Draws) :
    (daybyte v M DY d).1 = (fb v d).1 ||| maskBit M ||| dyBit DY := by
  cases M <;> cases DY <;> rfl

@[simp] theorem fieldbyte_snd (v : Byte) (M : Bool) (d : Draws) : (fieldbyte v M d).2 = (fb v d).2 := rfl
@[simp] theorem daybyte_snd (v : Byte) (M DY : Bool) (d : Draws) : (daybyte v M DY d).2 = (fb v d).2 := rfl

@[simp] theorem fieldParts_nil (bs : List Byte) : fieldParts [] bs = [] := by simp [fieldParts]
@[simp] theorem outOfRange_nil : outOfRange [] = 0 := rfl
@[simp] theorem afterOor_zero (d : Draws) : d.afterOor 0 = d := by simp [Draws.afterOor]

/-- One field of a sequence with enough drawn bytes: it is fb of its value, and the rest goes on with the draws fb left. -/
theorem fb_step {v : Byte} {vs : List Byte} {d : Draws} (h : outOfRange (v :: vs) ≤ d.bcdEncOor.length) :
    fieldParts (v :: vs) d.bcdEncOor = (fb v d).1 :: fieldParts vs (fb v d).2.bcdEncOor ∧
    outOfRange vs ≤ (fb v d).2.bcdEncOor.length ∧
    d.afterOor (outOfRange (v :: vs)) = (fb v d).2.afterOor (outOfRange vs) := by
  by_cases hv : v.toNat ≤ 99
  · have hn : outOfRange (v :: vs) = outOfRange vs := by simp [outOfRange, hv]
    rw [hn] at h ⊢
    have hb : fb v d = (bcdValue v.toNat, d) := by simp only [fb, hv, if_true, bcd_eq_bcdValue hv]
    rw [hb]
    refine ⟨?_, h, rfl⟩
    cases d.bcdEncOor <;> simp [fieldParts, hv]
  · have hn : outOfRange (v :: vs) = outOfRange vs + 1 := by
      simp [outOfRange, show 99 < v.toNat by omega]
    rw [hn] at h ⊢
    obtain ⟨b, bs, hq⟩ : ∃ b bs, d.bcdEncOor = b :: bs := by
      cases hq : d.bcdEncOor with
      | nil => simp [hq] at h
      | cons b bs => exact ⟨b, bs, rfl⟩
    have hb : fb v d = (b, { d with bcdEncOor := bs, count := d.count + 1 }) := by
      simp [fb, hv, Draws.nextOor, hq]
    rw [hb, hq]
    simp only [hq, List.length_cons] at h
    refine ⟨by simp [fieldParts, hv], by simpa using h, ?_⟩
    simp [Draws.afterOor, hq]
    omega

/-- fb reads the queue BCD_ENC_OOR and the counter alone, and writes nothing else of the draws. -/
theorem fb_congr (v : Byte) {d d' : Draws} (hq : d.bcdEncOor = d'.bcdEncOor) (hc : d.count = d'.count) :
    (fb v d).1 = (fb v d').1 ∧ (fb v d).2.bcdEncOor = (fb v d').2.bcdEncOor ∧ (fb v d).2.count = (fb v d').2.count := by
  unfold fb Draws.nextOor
  split
  · exact ⟨rfl, hq, hc⟩
  · rw [← hq, ← hc]
    cases d.bcdEncOor <;> exact ⟨rfl, rfl, rfl⟩

theorem fb_frame (v : Byte) (d : Draws) :
    (fb v d).2 = { d with bcdEncOor := (fb v d).2.bcdEncOor, count := (fb v d).2.count } := by
  unfold fb Draws.nextOor
  split
  · rfl
  · cases d.bcdEncOor <;> rfl

/-! ## A stream of frames -/

@[simp] theorem blockResponses_nil (d : Draws) : blockResponses [] d = ([], d) := rfl

theorem blockResponses_cons {f : List Byte} {d : Draws} {r : Response × Draws} (h : blockResponse f d = some r)
    (fs : List (List Byte)) :
    blockResponses (f :: fs) d = (r.1.frame :: (blockResponses fs r.2).1, (blockResponses fs r.2).2) := by
  simp [blockResponses, h]

end Sys2Proof.Machine
end

