-- ==== Sys2Proof/Tests/Slice0.lean ====
section
/-! SUPPORT. The model's own tests. Every expected value is written out from the spec: the encodings of 30_encoding.md R73
and R79, the vectors and programs of 95_test_vectors.md, and the checks of 48_harness.md R170. The witnesses at the end
meet the hypotheses of the obligations, clause by clause. -/

namespace Sys2Proof.Tests

open Sys2Proof.Machine

/-! ## A small bench -/

/-- The start image of 95_test_vectors.md section 5. -/
def image : Memory :=
  [(0x00, 0x56#8), (0x01, 0x34#8), (0x02, 0x12#8), (0x03, 0x01#8), (0x04, 0x10#8), (0x05, 0x06#8), (0x06, 0x24#8),
   (0x07, 0x11#8), (0x08, 0x22#8), (0x09, 0x33#8), (0x0A, 0x44#8), (0x0B, 0x55#8), (0x0C, 0x66#8), (0x0D, 0x77#8),
   (0x0E, 0x1C#8), (0x0F, 0x83#8), (0x11, 0xE7#8), (0x12, 0x40#8)]

/-- A program with one statement and the label 0 at its end. -/
def prog (i : Instr) : Program := ⟨[i, .halt], [(0, 1)]⟩

/-- x0..x3 written, the rest not; OK as given; one draw of each kind chosen: the bus fails as given, the out-of-range
bytes are 0xA5 and 0x5A, the device takes no step. -/
def bench (ok : Option Bool) (fail : Bool) (p : Program) : State :=
  { State.reset with
    x := (((State.reset.setVar 0 0x56#8).setVar 1 0x34#8).setVar 2 0x00#8).setVar 3 0x15#8 |>.x
    ok := ok, ri := image, program := p
    draws := ⟨[⟨fail, 0x01#8⟩], [0xA5#8], [0x5A#8], [[]], 0⟩ }

/-- The bench with nothing loaded and a bus that does not fail. -/
def bench0 : State := bench (some true) false ⟨[], [(7, 0)]⟩

/-- The responses after one step with the given bytes delivered. -/
def answers (bytes : List Byte) : Option (List (List Byte)) :=
  match step { bench0 with input := bytes } with
  | .next t => some t.responses
  | _       => none

/-- What one instruction leaves, seen through f. -/
def after {α : Type} (i : Instr) (s : State) (f : State → α) : Option α :=
  match exec i s with
  | .next t => some (f t)
  | _       => none

/-! ## WellFormed smoke: one ill-formed term for each check (R170) -/

theorem test_lbl_undefined : (Program.mk [.jmp 1, .halt] [(0, 0)]).failedCheck? = some .lbl := by decide
theorem test_lbl_twice : (Program.mk [.jmp 0, .halt] [(0, 0), (0, 1)]).failedCheck? = some .lbl := by decide
theorem test_lbl_past_end : (Program.mk [.jmp 0, .halt] [(0, 3)]).failedCheck? = some .lbl := by decide
theorem test_var_index : (Program.mk [.mov 32 0, .halt] []).failedCheck? = some .var := by decide
theorem test_var_last_read : (Program.mk [.rd 31 0 2, .halt] []).failedCheck? = some .var := by decide
theorem test_var_op_payload : (Program.mk [.op .tempDec 31 [0, 1], .halt] []).failedCheck? = some .var := by decide
theorem test_cnt_zero : (Program.mk [.rd 0 0 0, .halt] []).failedCheck? = some .cnt := by decide
theorem test_cnt_nine : (Program.mk [.wr 0 0 9, .halt] []).failedCheck? = some .cnt := by decide
theorem test_imm : (Program.mk [.movi 0 256, .halt] []).failedCheck? = some .imm := by decide
theorem test_imm_addr : (Program.mk [.rd 0 256 1, .halt] []).failedCheck? = some .imm := by decide
theorem test_arity : (Program.mk [.op .bcdEnc 0 [0, 1], .halt] []).failedCheck? = some .arity := by decide
theorem test_stmt : (Program.mk [.bcdEnc 1#8, .halt] []).failedCheck? = some .stmt := by decide
theorem test_bad_address_is_well_formed : (Program.mk [.rd 0 0x10 1, .halt] []).failedCheck? = none := by decide
theorem test_one_past_end_label : (Program.mk [.jmp 0] [(0, 1)]).failedCheck? = none := by decide
theorem test_refused_program : step { bench0 with program := ⟨[.rd 0 0 9, .halt], []⟩ } = .refused (.illFormed .cnt) := by rfl

/-! ## Decoding: each command's frame, byte by byte, from R73's table -/

theorem test_decode_bcdEnc : decode [0x01#8, 0x3B#8] = .ok (.bcdEnc 59#8, []) := by decide
theorem test_decode_bcdDec : decode [0x02#8, 0x59#8, 0xFF#8] = .ok (.bcdDec 0x59#8, [0xFF#8]) := by decide
theorem test_decode_dow :
    decode [0x10#8, 0x07#8, 0xE8#8, 0x06#8, 0x0A#8] = .ok (.dow 0x07#8 0xE8#8 0x06#8 0x0A#8, []) := by decide
theorem test_decode_tempDec : decode [0x20#8, 0xE7#8, 0x40#8] = .ok (.tempDec 0xE7#8 0x40#8, []) := by decide
theorem test_decode_almMap :
    decode [0x30#8, 0xF1#8, 0x38#8, 0x22#8, 0x0C#8, 0x03#8, 0x0F#8] =
      .ok (.almMap 0xF1#8 0x38#8 0x22#8 0x0C#8 0x03#8 0x0F#8, []) := by decide
theorem test_decode_almDec :
    decode [0x31#8, 0x01#8, 0xD6#8, 0xB4#8, 0x92#8, 0x95#8] = .ok (.almDec 0x01#8 0xD6#8 0xB4#8 0x92#8 0x95#8, []) := by
  decide
theorem test_decode_almCtl : decode [0x32#8, 0x01#8, 0x00#8] = .ok (.almCtl 0x01#8 0x00#8, []) := by decide
theorem test_decode_statAlm : decode [0x38#8, 0x83#8] = .ok (.statAlm 0x83#8, []) := by decide
theorem test_decode_statOsf : decode [0x39#8, 0x80#8] = .ok (.statOsf 0x80#8, []) := by decide
theorem test_decode_statClr : decode [0x3A#8, 0x83#8, 0x01#8] = .ok (.statClr 0x83#8 0x01#8, []) := by decide
theorem test_decode_timeEnc :
    decode [0x40#8, 0x38#8, 0x22#8, 0x0C#8, 0x01#8, 0x0A#8, 0x06#8, 0x18#8] =
      .ok (.timeEnc 0x38#8 0x22#8 0x0C#8 0x01#8 0x0A#8 0x06#8 0x18#8, []) := by decide
theorem test_decode_timeDec :
    decode [0x41#8, 0x56#8, 0x34#8, 0x12#8, 0x01#8, 0x10#8, 0x86#8, 0x24#8] =
      .ok (.timeDec 0x56#8 0x34#8 0x12#8 0x01#8 0x10#8 0x86#8 0x24#8, []) := by decide
/-- The frames of 95_test_vectors.md section 2.8. -/
theorem test_decode_illegal :
    ∀ b ∈ [0x00#8, 0x03#8, 0x0F#8, 0x11#8, 0x21#8, 0x33#8, 0x37#8, 0x3B#8, 0x42#8, 0xFF#8],
      decode [b] = .error (.illegalOpcode b) := by decide
theorem test_decode_incomplete : decode [0x10#8, 0x07#8, 0xE8#8, 0x06#8] = .error .incomplete := by decide
theorem test_table_word : decodeTableWord 24 0x40E720 = some (.tempDec 0xE7#8 0x40#8) := by decide
theorem test_table_word_short : decodeTableWord 8 0x20 = some (.tempDec 0#8 0#8) := by decide
/-- Harness statements have no encoding (R78). -/
theorem test_statements_have_no_frame :
    ∀ i ∈ [Instr.rd 0 0 1, .wr 0 0 1, .mov 0 0, .movi 0 0, .op .dow 0 [0, 1, 2, 3], .beqz 0 0, .bnez 0 0, .bok 0, .bnok 0,
      .jmp 0, .halt], encode i = none := by decide

/-! ## Commands: frames and responses of 95_test_vectors.md section 2 -/

theorem test_bcdEnc : answers [0x01#8, 0x63#8] = some [[0x00#8, 0x99#8]] := by decide
theorem test_bcdEnc_draw : answers [0x01#8, 0x64#8] = some [[0x00#8, 0xA5#8]] := by decide
theorem test_bcdDec : answers [0x02#8, 0xFF#8] = some [[0x00#8, 0xA5#8]] := by decide
theorem test_bcdDec_non_bcd : answers [0x02#8, 0x0A#8] = some [[0x00#8, 0x0A#8]] := by decide
theorem test_dow_largest : answers [0x10#8, 0xFF#8, 0xFF#8, 0x0E#8, 0xFF#8] = some [[0x00#8, 0x01#8]] := by decide
theorem test_dow_draw : answers [0x10#8, 0x00#8, 0x00#8, 0x01#8, 0x01#8] = some [[0x00#8, 0x5A#8]] := by decide
theorem test_tempDec_smallest : answers [0x20#8, 0x80#8, 0x00#8] = some [[0x00#8, 0xFE#8, 0x00#8]] := by decide
theorem test_tempDec_fraction : answers [0x20#8, 0xE7#8, 0x40#8] = some [[0x00#8, 0xFF#8, 0x9D#8]] := by decide
theorem test_almMap_custom :
    answers [0x30#8, 0x33#8, 0x38#8, 0x22#8, 0x0C#8, 0x03#8, 0x0F#8] =
      some [[0x00#8, 0x32#8, 0x02#8, 0x0B#8, 0x03#8, 0x34#8, 0x92#8, 0x95#8, 0x00#8]] := by decide
theorem test_almMap_collisions :
    answers [0x30#8, 0x01#8, 0x50#8, 0x00#8, 0x00#8, 0x00#8, 0x2D#8] =
      some [[0x00#8, 0x01#8, 0x01#8, 0x07#8, 0x04#8, 0x80#8, 0x00#8, 0x00#8, 0x45#8]] := by decide
theorem test_almDec_alarm2 :
    answers [0x31#8, 0x02#8, 0xB4#8, 0x92#8, 0x95#8, 0x77#8] =
      some [[0x00#8, 0x72#8, 0x00#8, 0x22#8, 0x0C#8, 0x0F#8]] := by decide
theorem test_almDec_bad_selector :
    answers [0x31#8, 0x03#8, 0x00#8, 0x00#8, 0x00#8, 0x00#8] = some [[0x02#8]] := by decide
theorem test_almCtl_custom : answers [0x32#8, 0x0B#8, 0x05#8] = some [[0x00#8, 0x07#8]] := by decide
theorem test_almCtl_bad_target : answers [0x32#8, 0x04#8, 0xFF#8] = some [[0x02#8]] := by decide
theorem test_statAlm : answers [0x38#8, 0x83#8] = some [[0x00#8, 0x03#8]] := by decide
theorem test_statOsf : answers [0x39#8, 0x7F#8] = some [[0x00#8, 0x00#8]] := by decide
theorem test_statClr : answers [0x3A#8, 0x83#8, 0x01#8] = some [[0x00#8, 0x82#8]] := by decide
theorem test_timeEnc_century_lost :
    answers [0x40#8, 0x00#8, 0x00#8, 0x00#8, 0x00#8, 0x01#8, 0x01#8, 0x96#8] =
      some [[0x00#8, 0x00#8, 0x00#8, 0x00#8, 0x01#8, 0x01#8, 0x01#8, 0x50#8]] := by decide
theorem test_timeDec_non_bcd :
    answers [0x41#8, 0xFF#8, 0xFF#8, 0xFF#8, 0xFF#8, 0xFF#8, 0xFF#8, 0xFF#8] =
      some [[0x00#8, 0xA5#8, 0xA5#8, 0x19#8, 0xA5#8, 0xA5#8, 0x55#8, 0x01#8, 0x09#8]] := by decide
theorem test_timeDec_noon :
    answers [0x41#8, 0x00#8, 0x00#8, 0x52#8, 0x01#8, 0x01#8, 0x01#8, 0x00#8] =
      some [[0x00#8, 0x00#8, 0x00#8, 0x18#8, 0x01#8, 0x01#8, 0x01#8, 0x00#8, 0x00#8]] := by decide
theorem test_illegal_opcode : answers [0x42#8, 0x01#8] = some [[0x01#8]] := by decide

/-! ## Statements: worked examples and corners of 48_harness.md -/

/-- Two bytes at 0x11 (R172). -/
theorem test_rd : after (.rd 4 0x11 2) bench0 (fun t => (t.getVar 4, t.getVar 5, t.getVar 6, t.ok, t.pc)) =
    some (some 0xE7#8, some 0x40#8, none, some true, 1) := by decide
/-- `RD x0, 0x0F, 2` faults, because 0x10 is not admitted (R172). -/
theorem test_rd_hole : after (.rd 0 0x0F 2) bench0 (fun t => (t.mark, t.pc)) =
    some (.fault (.badAddress 0x0F 2), 0) := by decide
theorem test_wr : after (.wr 0x0B 0 3) bench0 (fun t => (t.ri.readN 0x0A 5, t.ok)) =
    some ([0x44#8, 0x56#8, 0x34#8, 0x00#8, 0x1C#8], some true) := by decide
/-- A failed write whose draw says that byte 0 alone got through (R46). -/
theorem test_wr_fail : after (.wr 0x0B 0 3) (bench none true ⟨[], []⟩) (fun t => (t.ri.readN 0x0A 5, t.ok)) =
    some ([0x44#8, 0x56#8, 0x66#8, 0x77#8, 0x1C#8], some false) := by decide
theorem test_mov : after (.mov 9 3) bench0 (fun t => (t.getVar 9, t.pc)) = some (some 0x15#8, 1) := by decide
theorem test_mov_unwritten : after (.mov 9 9) bench0 State.mark = some (.fault (.unwrittenVar (.x 9))) := by decide
theorem test_movi : after (.movi 8 0x01) bench0 (fun t => (t.getVar 8, t.pc)) = some (some 0x01#8, 1) := by decide
/-- `OP BCD.ENC, x0, x0` replaces x0 by its encoding (R176): 0x34 is 52. -/
theorem test_op_same : after (.op .bcdEnc 1 [1]) bench0 (fun t => (t.getVar 1, t.ok)) =
    some (some 0x52#8, some true) := by decide
/-- Unwritten source before a bad target (95_test_vectors.md section 3). -/
theorem test_op_priority : after (.op .almMap 8 [2, 4, 0, 0, 0, 0]) bench0 State.mark =
    some (.fault (.unwrittenVar (.x 4))) := by decide
theorem test_beqz : after (.beqz 2 7) { bench0 with pc := 5 } State.pc = some 0 := by decide
theorem test_bnez : after (.bnez 2 7) { bench0 with pc := 5 } State.pc = some 6 := by decide
theorem test_bok : after (.bok 7) { bench0 with pc := 5 } State.pc = some 0 := by decide
theorem test_bnok : after (.bnok 7) { bench0 with pc := 5 } State.pc = some 6 := by decide
theorem test_bok_unwritten : after (.bok 7) (bench none false ⟨[], [(7, 0)]⟩) State.mark =
    some (.fault (.unwrittenVar .ok)) := by decide
theorem test_jmp : after (.jmp 7) { bench0 with pc := 5 } State.pc = some 0 := by decide
/-- `HALT` at index 7 leaves `pc = 7` (R182). -/
theorem test_halt : after .halt { bench0 with pc := 7 } (fun t => (t.mark, t.pc)) = some (.halted, 7) := by decide
/-- NoHalt past the last statement (R209). -/
theorem test_no_halt :
    (match step { bench0 with pc := 3 } with | .next t => some t.mark | _ => none) = some (.fault (.noHalt 3)) := by decide
/-- A device step raises a flag and cannot clear one (R52): bits 0 and 7 stay, bit 1 rises, bits 2..6 are replaced. -/
theorem test_device_status : deviceStatus 0x06#8 (some 0x28#8) 0x95#8 = 0xAB#8 := by decide

/-! ## Composite operations (R131 to R134, R232) against 95_test_vectors.md section 5 -/

/-- checkAlarms without a second read is program P2, statement by statement. -/
theorem test_checkAlarms_is_P2 : Session.checkAlarms false =
    ⟨[.rd 0 0x0F 1, .bnok 1, .op .statAlm 1 [0], .beqz 1 0, .op .statClr 2 [0, 1], .wr 0x0F 2 1, .bnok 1, .halt, .halt],
     [(0, 7), (1, 8)]⟩ := by decide
/-- create's alarm part sends Alarm 2 to 0x0B with 3 bytes before Alarm 1 to 0x07 with 4 (P4, statements 8 and 17). -/
theorem test_create_order : (Session.create false).stmts[8]? = some (.wr 0x0B 21 3) ∧
    (Session.create false).stmts[17]? = some (.wr 0x07 21 4) := by decide
theorem test_sessions_well_formed :
    ∀ r : Bool, (Session.checkAlarms r).WellFormed ∧ (∀ c, (Session.checkStopFlag c r).WellFormed) ∧
      (Session.disableAlarms r).WellFormed ∧ (Session.create r).WellFormed ∧ Session.readTemperature.WellFormed := by
  decide

/-! ## How the host places an instruction -/

/-- From reset, a word placed by withFetchWord is the next thing that runs (log entry 7). -/
theorem test_withFetchWord : (match step (State.reset.withFetchWord 16 0x3B01) with | .next t => some t.responses | _ => none) =
    some [[0x00#8, 0x59#8]] := by decide

/-! ## Witnesses: the hypotheses of every obligation that has some are met together, each clause at a boundary -/

/-- DecodedFramesAreEncodings: a frame that decodes, with a rest. -/
theorem witness_decodedFrames : decode [0x3A#8, 0x83#8, 0x01#8, 0x77#8] = .ok (.statClr 0x83#8 0x01#8, [0x77#8]) ∧
    encode (.statClr 0x83#8 0x01#8) = some [0x3A#8, 0x83#8, 0x01#8] := by decide

/-- CompleteFrameIsAnsweredOnce: a complete frame, and one that lacks one byte. -/
theorem witness_completeFrame : [0x83#8, 0x01#8].length = Cmd.statClr.operandLen ∧
    ({ bench0 with input := [0x3A#8, 0x83#8, 0x01#8, 0x77#8] } : State).input =
      Cmd.statClr.opc :: [0x83#8, 0x01#8] ++ [0x77#8] ∧
    [0x83#8].length < Cmd.statClr.operandLen := by decide

/-- IllegalOpcodeIsAnswered: the lowest and the highest illegal byte. -/
theorem witness_illegalOpcode : ∀ b ∈ [0x00#8, 0xFF#8],
    b ∉ [0x01#8, 0x02#8, 0x10#8, 0x20#8, 0x30#8, 0x31#8, 0x32#8, 0x38#8, 0x39#8, 0x3A#8, 0x40#8, 0x41#8] ∧
    ({ bench0 with input := [b, 0x01#8] } : State).input = b :: [0x01#8] := by decide

/-- FrameStreamIsAnsweredInOrder: two complete frames. -/
theorem witness_frameStream :
    (∀ f ∈ [(Cmd.bcdEnc, [0x3B#8]), (Cmd.statClr, [0x83#8, 0x01#8])], f.2.length = f.1.operandLen) ∧
    ({ bench0 with input := [0x01#8, 0x3B#8, 0x3A#8, 0x83#8, 0x01#8, 0x77#8] } : State).input =
      ([(Cmd.bcdEnc, [0x3B#8]), (Cmd.statClr, [0x83#8, 0x01#8])].map
        (fun f : Cmd × List Byte => f.1.opc :: f.2)).flatten ++ [0x77#8] := by decide

/-- StepRunsTheDecodedFrame. -/
theorem witness_decodedFrame :
    decode ({ bench0 with input := [0x38#8, 0x83#8] } : State).input = .ok (.statAlm 0x83#8, []) := by decide

/-- StepRunsTheStatementAtPc, WellFormedRunAlwaysSteps and the NoHalt clause of FaultPriorities: a statement at pc, and pc one
past the last. -/
theorem witness_statementAtPc : (bench none false (prog (.jmp 0))).mark = .running ∧
    (bench none false (prog (.jmp 0))).program.WellFormed ∧
    decode (bench none false (prog (.jmp 0))).input = .error .incomplete ∧
    (bench none false (prog (.jmp 0))).program.stmts[(bench none false (prog (.jmp 0))).pc]? = some (.jmp 0) ∧
    ({ bench none false (prog (.jmp 0)) with pc := 2 } : State).program.stmts.length ≤ 2 := by decide

/-- FailedCheckRefusesTheProgram: each named failure at its boundary. -/
theorem witness_failedCheck_label :
    FailsNamedCheck ⟨[.halt], [(0, 0), (0, 0)]⟩ ∧ FailsNamedCheck ⟨[.bok 1, .halt], [(0, 0)]⟩ :=
  ⟨.inl (by decide), .inr (.inl ⟨.bok 1, by decide, 1, rfl, by decide⟩)⟩
theorem witness_failedCheck_bus :
    FailsNamedCheck ⟨[.rd 31 0 2], []⟩ ∧ FailsNamedCheck ⟨[.rd 0 0 0], []⟩ ∧ FailsNamedCheck ⟨[.wr 256 0 1], []⟩ ∧
    FailsNamedCheck ⟨[.wr 0 0 9], []⟩ :=
  ⟨.inr (.inr (.inl ⟨31, 0, 2, by decide, by decide⟩)), .inr (.inr (.inl ⟨0, 0, 0, by decide, by decide⟩)),
   .inr (.inr (.inr (.inl ⟨256, 0, 1, by decide, by decide⟩))), .inr (.inr (.inr (.inl ⟨0, 0, 9, by decide, by decide⟩)))⟩
theorem witness_failedCheck_variables :
    FailsNamedCheck ⟨[.mov 32 0], []⟩ ∧ FailsNamedCheck ⟨[.movi 0 256], []⟩ ∧
    FailsNamedCheck ⟨[.op .tempDec 31 [0, 1]], []⟩ ∧ FailsNamedCheck ⟨[.op .tempDec 0 [0]], []⟩ ∧
    FailsNamedCheck ⟨[.beqz 32 0], [(0, 0)]⟩ :=
  ⟨.inr (.inr (.inr (.inr (.inl ⟨32, 0, by decide, by decide⟩)))),
   .inr (.inr (.inr (.inr (.inr (.inl ⟨0, 256, by decide, by decide⟩))))),
   .inr (.inr (.inr (.inr (.inr (.inr (.inl ⟨.tempDec, 31, [0, 1], by decide, .inr (.inl (by decide))⟩)))))),
   .inr (.inr (.inr (.inr (.inr (.inr (.inl ⟨.tempDec, 0, [0], by decide, .inr (.inr (.inr (by decide)))⟩)))))),
   .inr (.inr (.inr (.inr (.inr (.inr (.inr ⟨32, 0, .inl (by decide), by decide⟩))))))⟩
/-- Its state hypotheses, with an ill-formed program, and its second clause with an address that is not admitted. -/
theorem witness_failedCheck_state : (bench none false ⟨[.rd 0 0 9], []⟩).mark = .running ∧
    decode (bench none false ⟨[.rd 0 0 9], []⟩).input = .error .incomplete ∧
    (Program.mk [.rd 0 0x10 1] []).labels = [] ∧ 0 + 1 ≤ 32 ∧ 1 ≤ 1 ∧ 1 ≤ 8 ∧ 0x10 ≤ 255 := by decide

/-- ResponseIgnoresAllState and BadTargetExactlyForBadSelectors: two states that differ, in draws the rule does not name too,
and agree on the named ones: for BCD.ENC, for DOW, and for a command that names none. -/
theorem witness_namedDraws : (Instr.bcdEnc 100#8).isStatement = false ∧ (Instr.dow 0#8 0#8 1#8 1#8).isStatement = false ∧
    AgreeOnNamedDraws (.bcdEnc 100#8) bench0.draws { bench0.draws with dowOod := [], busFail := [] } ∧
    AgreeOnNamedDraws (.dow 0#8 0#8 1#8 1#8) bench0.draws { bench0.draws with bcdEncOor := [], deviceStep := [] } ∧
    AgreeOnNamedDraws (.statAlm 0#8) bench0.draws ⟨[], [], [], [], 9⟩ ∧
    bench0 ≠ { bench0 with pc := 9, ok := none, mark := .halted } :=
  ⟨rfl, rfl, ⟨rfl, rfl⟩, ⟨rfl, rfl⟩, trivial, by decide⟩

/-- BcdEncGivesTheDigitsOrTheDraw, and BcdRoundTrips at the ends of its ranges. -/
theorem witness_bcd : (99#8 : Byte).toNat ≤ 99 ∧ 99 < (100#8 : Byte).toNat ∧ bench0.draws.bcdEncOor = 0xA5#8 :: [] ∧
    (0x99#8 : Byte).toNat / 16 ≤ 9 ∧ (0x99#8 : Byte).toNat % 16 ≤ 9 := by decide

/-- DowFollowsTheCongruence and DowIsTheSameUnderBothDivisions: the corners inside and outside DOWDOM. -/
theorem witness_dow : ((14#8 : Byte).toNat ≤ 14 ∧ ¬ (65535 = 0 ∧ (14#8 : Byte).toNat ≤ 2)) ∧
    ((3#8 : Byte).toNat ≤ 14 ∧ ¬ (0 = 0 ∧ (3#8 : Byte).toNat ≤ 2)) ∧
    ¬ ((15#8 : Byte).toNat ≤ 14 ∧ ¬ (1 = 0 ∧ (15#8 : Byte).toNat ≤ 2)) ∧
    ¬ ((2#8 : Byte).toNat ≤ 14 ∧ ¬ (0 = 0 ∧ (2#8 : Byte).toNat ≤ 2)) ∧
    bench0.draws.dowOod = 0x5A#8 :: [] ∧ InDowDom 65535 14 255 ∧ InDowDom 0 3 0 := by decide

/-- AlmMapGivesTheRegisterBlock, AlmCtlSetsTheEnableBits: one mode for each selector, with every field at 99. -/
theorem witness_almMap : (0xFC#8 : Byte).toNat % 4 = 0 ∧ (0xF1#8 : Byte).toNat % 4 = 1 ∧
    2 ≤ (0x02#8 : Byte).toNat % 4 ∧ 2 ≤ (0x0B#8 : Byte).toNat % 4 ∧ (99#8 : Byte).toNat ≤ 99 := by decide

/-- OutOfRangeFieldTakesTheDraw: all six fields of TIME.ENC, all four of Alarm 1 and all three of Alarm 2 out of range with
as many drawn bytes, and one field of several out of range with one. -/
theorem witness_outOfRange :
    outOfRange [100#8, 101#8, 255#8, 100#8, 100#8, 200#8] ≤ [1#8, 2#8, 3#8, 4#8, 5#8, 6#8].length ∧
    fieldParts [100#8, 101#8, 255#8, 100#8, 100#8, 200#8] [1#8, 2#8, 3#8, 4#8, 5#8, 6#8] = [1#8, 2#8, 3#8, 4#8, 5#8, 6#8] ∧
    (0xF9#8 : Byte).toNat % 4 = 1 ∧ outOfRange [100#8, 100#8, 100#8, 100#8] ≤ [1#8, 2#8, 3#8, 4#8].length ∧
    2 ≤ (0x0B#8 : Byte).toNat % 4 ∧ outOfRange [100#8, 100#8, 100#8] ≤ [1#8, 2#8, 3#8].length ∧
    outOfRange [59#8, 100#8, 23#8, 99#8] ≤ bench0.draws.bcdEncOor.length ∧
    fieldParts [59#8, 100#8, 23#8, 99#8] bench0.draws.bcdEncOor = [0x59#8, 0xA5#8, 0x23#8, 0x99#8] := by decide

/-- AlmDecReadsTheRegisterBlock: each selector. -/
theorem witness_almDec : (0x01#8 : Byte) = 0x01#8 ∧ (0x02#8 : Byte) = 0x02#8 ∧
    (0x00#8 : Byte) ≠ 0x01#8 ∧ (0x00#8 : Byte) ≠ 0x02#8 ∧ (0x03#8 : Byte) ≠ 0x01#8 ∧ (0x03#8 : Byte) ≠ 0x02#8 := by decide

/-- AlarmBlockRoundTrips: the largest fields, with DY = 1 (Alarm 1) and DY = 0 (custom). -/
theorem witness_alarmRoundTrip : (0xF9#8 : Byte).toNat % 4 ≠ 0 ∧ (0x77#8 : Byte).toNat % 4 ≠ 0 ∧
    (59#8 : Byte).toNat ≤ 59 ∧ (23#8 : Byte).toNat ≤ 23 ∧
    (if (0xF9#8 : Byte).getLsbD 3 then 39#8 else 255#8 : Byte).toNat ≤ 39 ∧
    (if (0x77#8 : Byte).getLsbD 3 then 255#8 else 39#8 : Byte).toNat ≤ 39 := by decide

/-- TimeEncGivesTheTimeBlock, TimeBlockRoundTrips and TimeFieldsRoundTrip at the ends of their ranges. -/
theorem witness_time : (99#8 : Byte).toNat ≤ 99 ∧ (39#8 : Byte).toNat ≤ 39 ∧ (79#8 : Byte).toNat ≤ 79 ∧
    (199#8 : Byte).toNat ≤ 199 ∧
    (∀ t ∈ [0x59#8, 0x59#8, 0x39#8, 0x07#8, 0x31#8, 0x79#8, 0x99#8], validBcd t = true) ∧
    (0x39#8 : Byte).toNat < 0x40 ∧ (0x07#8 : Byte) ≠ 0x00#8 ∧ (0x79#8 : Byte).getLsbD 7 = false := by decide

/-- AdmittedAccesses, RdReadsOneSnapshot and FaultPriorities: the accesses around the hole and at the ends. -/
theorem witness_accesses : admitted 0x0F 1 = true ∧ admitted 0x08 8 = true ∧ admitted 0x11 2 = true ∧
    admitted 0x0F 2 = false ∧ admitted 0x10 1 = false ∧ admitted 0x12 2 = false ∧ admitted 0x13 1 = false ∧
    24 + 8 ≤ 32 ∧ 0x0F ≤ 255 := by decide

/-- MemReadAndMemWrite: a well-formed image and an admitted access. -/
theorem witness_memWrite : image.wf ∧ admitted 0x07 [0x56#8, 0x34#8, 0x12#8, 0x15#8].length = true := by decide

/-- DeviceStepsAreExactlyTheAllowedOnes: an image, a change of every kind, and a drawn list of steps. -/
theorem witness_device : image.wf ∧ (image.write 0x00 0x57#8 |>.write 0x0F 0xFF#8).wf ∧
    DeviceMay image (image.write 0x00 0x57#8 |>.write 0x0F 0xFF#8) ∧ bench0.draws.deviceStep = [] :: [] := by
  refine ⟨by decide, by decide, ⟨fun a h1 h2 => ?_, ?_⟩, by decide⟩
  · have : ∀ a : Fin 15, 7 ≤ a.val →
        (image.write 0x00 0x57#8 |>.write 0x0F 0xFF#8).read a.val = image.read a.val := by decide
    exact this ⟨a, by omega⟩ h1
  · rintro k (rfl | rfl | rfl) _ <;> decide

/-- RdReadsOneSnapshot, WrStoresOrFailsPerByte and FaultPriorities: a bus that fails and one that does not, written
sources, and sources of which one is unwritten behind a written one. -/
theorem witness_bus : (bench none true (prog .halt)).draws.nextBus.1.fail = true ∧
    (bench none false (prog .halt)).draws.nextBus.1.fail = false ∧
    (∀ k, k < 4 → bench0.getVar (0 + k) ≠ none) ∧ bench0.getVar 4 = none := by decide
theorem witness_lowestUnwritten : ∀ j, 3 ≤ j → j < 4 → bench0.getVar j ≠ none := by
  intro j h1 h2
  obtain rfl : j = 3 := by omega
  decide

/-- MovAndMoviSetOneVariable, ZeroBranchesFollowTheVariable, OkBranchesFollowTheFlag, JmpAndHalt: written and unwritten
sources, and a label that is defined once. -/
theorem witness_variables : bench0.getVar 0 = some 0x56#8 ∧ bench0.getVar 2 = some 0x00#8 ∧ bench0.getVar 31 = none ∧
    bench0.ok = some true ∧ (bench none false (prog .halt)).ok = none ∧
    (bench0.program.labels.map Prod.fst).Nodup ∧ (7, 0) ∈ bench0.program.labels := by decide

/-- OpRunsTheBlockCommand, OpCompletesWithoutBadTarget: written sources for a command that answers OK and for one that does
not, with destinations that end at x31, and an unwritten source behind a written one. -/
theorem witness_op : 24 + Cmd.almMap.payloadLen ≤ 32 ∧ [0, 1, 2, 3, 0, 1].length = Cmd.almMap.operandLen ∧
    [2, 0, 0, 0, 0, 0].length = Cmd.almMap.operandLen ∧ (∀ j ∈ [0, 1, 2, 3, 0, 1], j < 32) ∧
    [0, 1, 2, 3, 0, 1].map bench0.getVar = [0x56#8, 0x34#8, 0x00#8, 0x15#8, 0x56#8, 0x34#8].map some ∧
    [2, 0, 0, 0, 0, 0].map bench0.getVar = [0x00#8, 0x56#8, 0x56#8, 0x56#8, 0x56#8, 0x56#8].map some ∧
    (0x56#8 : Byte).toNat % 4 ≠ 0 ∧ (0x00#8 : Byte).toNat % 4 = 0 ∧
    (∀ i ∈ [0], bench0.getVar i ≠ none) ∧ [0, 4, 1, 2, 3, 0] = [0] ++ 4 :: [1, 2, 3, 0] ∧ bench0.getVar 4 = none := by decide
/-- OpCompletesWithoutBadTarget for ALM.DEC with selector 0x01, which x3 holds here. -/
theorem witness_op_almDec : [3, 0, 0, 0, 0].map (bench0.setVar 3 0x01#8).getVar =
      [0x01#8, 0x56#8, 0x56#8, 0x56#8, 0x56#8].map some ∧
    [0x01#8, 0x56#8, 0x56#8, 0x56#8, 0x56#8].head? = some 0x01#8 ∧
    [3, 0, 0, 0, 0].length = Cmd.almDec.operandLen := by decide

/-- CmdErrorIsOnlyBadTarget, and the first clause of FaultsArePreciseAndPermanent. -/
theorem witness_cmdError : bench0.mark = .running ∧
    exec (.op .almCtl 8 [2, 0]) bench0 = .next { bench0 with mark := .fault (.cmdError .almCtl 0x02#8) } :=
  ⟨rfl, rfl⟩

/-- FaultsArePreciseAndPermanent, EndedRunHasNoHarnessStep: a running state whose step faults, and a faulted state that answers
a frame, or has none, and a halted one. -/
theorem witness_faultStep : bench0.mark = .running ∧
    (match step { bench0 with pc := 3 } with | .next t => some t.mark | _ => none) = some (.fault (.noHalt 3)) := by decide
theorem witness_faulted :
    (match step { bench0 with mark := .fault (.noHalt 3), input := [0x38#8, 0x83#8] } with
      | .next t => some t.mark | _ => none) = some (.fault (.noHalt 3)) ∧
    decode ({ bench0 with mark := .fault (.noHalt 3) } : State).input = .error .incomplete ∧
    decode ({ bench0 with mark := .halted } : State).input = .error .incomplete := by decide

/-- EveryStepKeepsTheInvariant and WrittenStaysWritten: a state that meets the invariant and steps. -/
theorem witness_inv : (bench none false (prog (.rd 5 0x11 2))).Inv :=
  ⟨by decide, fun _ => by decide, trivial⟩
theorem witness_inv_step :
    (match step (bench none false (prog (.rd 5 0x11 2))) with
      | .next t => some (t.ok, t.getVar 0, t.getVar 5) | _ => none) =
      some (some true, some 0x56#8, some 0xE7#8) := by decide

/-- InstructionFrames: a statement and a command that give a next state. -/
theorem witness_frames : (after (.wr 0x0B 0 3) bench0 State.ok).isSome = true ∧
    (after (.statAlm 0x83#8) bench0 State.ok).isSome = true := by decide

/-- OnlyWrTouchesAlarmAndControl: a step that is no WR. -/
theorem witness_noWr : (bench none false (prog (.rd 5 0x11 2))).program.stmts[0]? = some (.rd 5 0x11 2) ∧
    ∀ a xs n, Instr.rd 5 0x11 2 ≠ .wr a xs n := ⟨by decide, fun _ _ _ => by simp⟩

/-- ReadReturnsTheLatestWrite: a write of x0, x1 to the last two control and alarm addresses, and a read of them. -/
theorem witness_writeThenRead : 0x07 ≤ 0x0D ∧ 0x0D + 2 ≤ 0x0F ∧
    (after (.wr 0x0D 0 2) bench0 (fun t => (t.mark, t.ri.deviceSteps []))) =
      some (.running, (image.write 0x0D 0x56#8).write 0x0E 0x34#8) ∧
    bench0.draws.nextBus.1.fail = false ∧ bench0.mark = .running ∧
    (after (.rd 8 0x0D 2) { bench0 with ri := (image.write 0x0D 0x56#8).write 0x0E 0x34#8 } (fun t => t.getVar 9)) =
      some (some 0x34#8) := by decide

end Sys2Proof.Tests
end

