-- ==== Sys2Proof/Proofs/State.lean ====
section
/-! SUPPORT. The state at the start of a run (10_state.md R34), and what a command's response can depend on (R20): a
response with the queues it does not name exchanged is the same response, and leaves the exchanged queues as they are. -/

namespace Sys2Proof.Machine

/-! ## The start of a run -/

@[simp] theorem State.getVar_reset (i : Nat) : State.reset.getVar i = none := by
  by_cases hi : i < Config.varCount <;> simp [State.getVar, State.reset, hi]

/-- A listed address of the first image holds its draw, and an unlisted one reads as it. -/
@[simp] theorem Memory.read_map_riInit (l : List Nat) (a : Nat) :
    Memory.read (l.map fun b => (b, Config.riInit b)) a = Config.riInit a := by
  induction l with
  | nil => rfl
  | cons b l ih =>
    rw [List.map_cons, Memory.read, ih]
    split
    · next h => rw [h]
    · rfl

/-- Settles O46: the fields as R34 gives them, the image by induction over its addresses. -/
theorem startOfARun : Obligations.StartOfARun :=
  ⟨State.getVar_reset, rfl, rfl, rfl, fun a _ => Memory.read_map_riInit admittedAddrs a⟩

/-! ## Exchanging the queues a rule does not name -/

/-- The draws d with the queue BCD_ENC_OOR and the counter of e. -/
def Draws.withOor (d e : Draws) : Draws := { d with bcdEncOor := e.bcdEncOor, count := e.count }

/-- The draws d with the queue DOW_OOD and the counter of e. -/
def Draws.withOod (d e : Draws) : Draws := { d with dowOod := e.dowOod, count := e.count }

/-- The draws d with what the rule of the command i names taken from e. -/
def Draws.withNamed (i : Instr) (d e : Draws) : Draws :=
  match i with
  | .bcdEnc _ | .almMap _ _ _ _ _ _ | .timeEnc _ _ _ _ _ _ _ => d.withOor e
  | .dow _ _ _ _                                             => d.withOod e
  | _                                                        => d

/-- Draws agree on what a rule names exactly when taking that from the one changes nothing in the other. -/
theorem agreeOnNamedDraws_iff {i : Instr} {e d : Draws} : AgreeOnNamedDraws i e d ↔ d.withNamed i e = d := by
  obtain ⟨bus, oor, ood, dev, count⟩ := d
  cases i <;> simp [AgreeOnNamedDraws, Draws.withNamed, Draws.withOor, Draws.withOod]

theorem Draws.withNamed_self (i : Instr) (d : Draws) : d.withNamed i d = d := by
  cases i <;> rfl

theorem Draws.withNamed_withNamed (i : Instr) (d e : Draws) :
    (d.withNamed i e).withNamed i e = d.withNamed i e := by
  cases i <;> rfl

/-- No rule of a command names BUS_FAIL or DEVICE_STEP. -/
theorem Draws.withNamed_frame (i : Instr) (d e : Draws) :
    d.withNamed i e =
      { d with
        bcdEncOor := (d.withNamed i e).bcdEncOor, dowOod := (d.withNamed i e).dowOod, count := (d.withNamed i e).count } := by
  cases i <;> rfl

/-! ## Each response, with those queues exchanged -/

@[simp] theorem fb_withOor (v : Byte) (d e : Draws) :
    fb v (d.withOor e) = ((fb v e).1, d.withOor (fb v e).2) := by
  obtain ⟨hv, hq, hc⟩ := fb_congr v (d := d.withOor e) (d' := e) rfl rfl
  refine Prod.ext hv ?_
  rw [fb_frame, hq, hc]
  rfl

@[simp] theorem fieldbyte_withOor (v : Byte) (M : Bool) (d e : Draws) :
    fieldbyte v M (d.withOor e) = ((fieldbyte v M e).1, d.withOor (fieldbyte v M e).2) := by
  simp [fieldbyte]

@[simp] theorem daybyte_withOor (v : Byte) (M DY : Bool) (d e : Draws) :
    daybyte v M DY (d.withOor e) = ((daybyte v M DY e).1, d.withOor (daybyte v M DY e).2) := by
  simp [daybyte]

theorem bcdEncResponse_withOor (n : Byte) (d e : Draws) :
    bcdEncResponse n (d.withOor e) = ((bcdEncResponse n e).1, d.withOor (bcdEncResponse n e).2) := by
  simp [bcdEncResponse]

theorem timeEncResponse_withOor (sec min hour dow day month yoff : Byte) (d e : Draws) :
    timeEncResponse sec min hour dow day month yoff (d.withOor e) =
      ((timeEncResponse sec min hour dow day month yoff e).1,
        d.withOor (timeEncResponse sec min hour dow day month yoff e).2) := by
  simp [timeEncResponse]

theorem almMapResponse_withOor (mode sec min hour dow day : Byte) (d e : Draws) :
    almMapResponse mode sec min hour dow day (d.withOor e) =
      ((almMapResponse mode sec min hour dow day e).1, d.withOor (almMapResponse mode sec min hour dow day e).2) := by
  unfold almMapResponse
  match resolveMode mode with
  | none            => rfl
  | some (eff, .a1) => simp
  | some (eff, .a2) => simp

@[simp] theorem Draws.nextOod_withOod (d e : Draws) :
    (d.withOod e).nextOod = (e.nextOod.1, d.withOod e.nextOod.2) := by
  unfold Draws.nextOod Draws.withOod
  cases e.dowOod <;> rfl

theorem dowResponse_withOod (yearHi yearLo month day : Byte) (d e : Draws) :
    dowResponse yearHi yearLo month day (d.withOod e) =
      ((dowResponse yearHi yearLo month day e).1, d.withOod (dowResponse yearHi yearLo month day e).2) := by
  simp only [dowResponse, Draws.nextOod_withOod]
  split <;> rfl

/-- ALM.DEC draws nothing. -/
theorem almDecResponse_eq (sel r0 r1 r2 r3 : Byte) (d e : Draws) :
    almDecResponse sel r0 r1 r2 r3 d = ((almDecResponse sel r0 r1 r2 r3 e).1, d) := by
  unfold almDecResponse
  split
  · rfl
  · split <;> rfl

/-- ALM.CTL draws nothing. -/
theorem almCtlResponse_eq (mode ctrl : Byte) (d e : Draws) :
    almCtlResponse mode ctrl d = ((almCtlResponse mode ctrl e).1, d) := by
  unfold almCtlResponse
  cases resolveMode mode <;> rfl

/-- A command gives the same response whatever stands in the draws its rule does not name, and leaves those alone. -/
theorem respondTo_withNamed {i : Instr} {e : Draws} {r : Response × Draws} (h : respondTo i e = some r) (d : Draws) :
    respondTo i (d.withNamed i e) = some (r.1, d.withNamed i r.2) := by
  cases i <;> cases h
  case bcdEnc n => exact congrArg some (bcdEncResponse_withOor n d e)
  case almMap mode se mi h dw dd => exact congrArg some (almMapResponse_withOor mode se mi h dw dd d e)
  case timeEnc se mi h dw dd mo yo => exact congrArg some (timeEncResponse_withOor se mi h dw dd mo yo d e)
  case dow yh yl m dd => exact congrArg some (dowResponse_withOod yh yl m dd d e)
  case almDec sel r0 r1 r2 r3 => exact congrArg some (almDecResponse_eq sel r0 r1 r2 r3 d e)
  case almCtl mode ctrl => exact congrArg some (almCtlResponse_eq mode ctrl d e)
  all_goals rfl

/-- A command draws from nothing but the queues its rule names. -/
theorem withNamed_of_respondTo {i : Instr} {d : Draws} {r : Response × Draws} (h : respondTo i d = some r) :
    d.withNamed i r.2 = r.2 := by
  have h' := respondTo_withNamed h d
  rw [Draws.withNamed_self, h] at h'
  exact (congrArg Prod.snd (Option.some.inj h')).symm

/-- Settles O12: the second state's draws are its own with the named ones of the first, and the response to a command
does not see the difference. -/
theorem responseIgnoresAllState : Obligations.ResponseIgnoresAllState := by
  intro i s s' hi hagree
  obtain ⟨r, hr, hexec⟩ := exec_command hi s
  obtain ⟨r', hr', hexec'⟩ := exec_command hi s'
  have hsame : r' = (r.1, s'.draws.withNamed i r.2) := by
    have h := respondTo_withNamed hr s'.draws
    rw [agreeOnNamedDraws_iff.1 hagree, hr'] at h
    exact Option.some.inj h
  subst hsame
  refine ⟨r.1.frame, r.2, s'.draws.withNamed i r.2, hexec, hexec',
    agreeOnNamedDraws_iff.2 (Draws.withNamed_withNamed i _ _), ?_⟩
  rw [← withNamed_of_respondTo hr]
  exact Draws.withNamed_frame i s.draws r.2

end Sys2Proof.Machine
end

section
/-! SUPPORT. The accesses of the register image (20_memory.md R42, R44, R45): an admitted access as an interval, the bus
statements on any other access (60_exceptions.md R207), and a read of what a write has just stored. -/

namespace Sys2Proof.Machine

/-! ## Admitted accesses -/

theorem admittedAddr_iff {a : Nat} : admittedAddr a = true ↔ a ≤ 0x0F ∨ (0x11 ≤ a ∧ a ≤ 0x12) := by
  simp [admittedAddr]

/-- The hole at 0x10 lies in no admitted access, so an access that begins below it ends below it (R42). -/
theorem admitted_iff_interval {a n : Nat} :
    admitted a n = true ↔ 1 ≤ n ∧ n ≤ 8 ∧ (a + n ≤ 0x10 ∨ (0x11 ≤ a ∧ a + n ≤ 0x13)) := by
  rw [admitted_iff]
  simp only [admittedAddr_iff]
  constructor
  · rintro ⟨⟨h1, h8⟩, hall⟩
    refine ⟨h1, h8, ?_⟩
    have hfirst := hall 0 (by omega)
    have hlast := hall (n - 1) (by omega)
    by_cases hhole : a ≤ 0x10 ∧ 0x10 < a + n
    · have := hall (0x10 - a) (by omega)
      omega
    · omega
  · rintro ⟨h1, h8, hin⟩
    exact ⟨⟨h1, h8⟩, fun k hk => by omega⟩

/-- RD of an access that is not admitted raises BadAddress (R207). -/
theorem exec_rd_of_not_admitted {xd a n : Nat} {s : State} (hw : (Instr.rd xd a n).WellFormed s.program)
    (ha : admitted a n = false) : exec (.rd xd a n) s = .next (s.raise (.badAddress a n)) := by
  simp [exec, execRd, checked_of_wellFormed hw, ha]

/-- WR of an access that is not admitted raises BadAddress, before it reads a variable (R207, R211). -/
theorem exec_wr_of_not_admitted {a xs n : Nat} {s : State} (hw : (Instr.wr a xs n).WellFormed s.program)
    (ha : admitted a n = false) : exec (.wr a xs n) s = .next (s.raise (.badAddress a n)) := by
  simp [exec, execWr, checked_of_wellFormed hw, ha]

/-- Settles O31: the interval form of an admitted access, and the bus statements on every other one. -/
theorem admittedAccesses : Obligations.AdmittedAccesses :=
  ⟨fun _ _ => admitted_iff_interval, fun _ _ _ _ hadm hx h1 h8 ha =>
    ⟨exec_rd_of_not_admitted (Instr.wellFormed_rd hx h1 h8 ha) hadm,
      exec_wr_of_not_admitted (Instr.wellFormed_wr hx h1 h8 ha) hadm⟩⟩

/-! ## A read of what a write stored -/

namespace Memory

/-- A write leaves every address outside it alone (R45). -/
theorem read_writeN_of_outside (m : Memory) {a b : Nat} {vs : List Byte} (h : b < a ∨ a + vs.length ≤ b) :
    (m.writeN a vs).read b = m.read b := by
  rw [read_writeN, if_neg (by omega)]

/-- The bytes written are the bytes read there (R44, R45). -/
@[simp] theorem readN_writeN (m : Memory) (a : Nat) (vs : List Byte) : (m.writeN a vs).readN a vs.length = vs := by
  apply List.ext_getElem?
  intro k
  rw [readN_getElem?, read_writeN]
  by_cases hk : k < vs.length <;> simp [hk]

end Memory

/-- Settles O32: each law of the register image, and the canonical form by the admitted addresses of the access. -/
theorem memReadAndMemWrite : Obligations.MemReadAndMemWrite := by
  intro m a n v
  refine ⟨Memory.readN_length m a n, fun k hk => ?_, Memory.readN_writeN m a v,
    fun b => Memory.read_writeN_of_outside m, fun hm hadm => Memory.wf_writeN hm (admitted_iff.1 hadm).2⟩
  rw [Memory.readN_getElem?, if_pos hk]

end Sys2Proof.Machine
end

section
/-! SUPPORT. Command frames at the front of the input (30_encoding.md R70, R71): a frame that lacks operand bytes is not
decoded, a complete one is what the next step runs, and the bytes of its response (60_exceptions.md R200, R202). -/

namespace Sys2Proof

/-- Operand bytes of another number than L make no instruction. -/
theorem Cmd.assemble_eq_none {c : Cmd} {bs : List Byte} (h : bs.length ≠ c.operandLen) : c.assemble bs = none :=
  Option.eq_none_iff_forall_ne_some.2 fun _ hi => h (Cmd.encode_assemble hi).2

/-- An opcode with fewer than its L operand bytes is not decoded yet (R71). -/
theorem decode_incomplete {c : Cmd} {bs : List Byte} (h : bs.length < c.operandLen) :
    decode (c.opc :: bs) = .error .incomplete := by
  have hnone : c.assemble (bs.take c.operandLen) = none := by
    rw [List.take_of_length_le h.le]
    exact Cmd.assemble_eq_none h.ne
  simp only [decode, Cmd.ofOpc_opc, hnone]

end Sys2Proof

namespace Sys2Proof.Machine

/-- The step of a state with a frame at the front of its input runs that frame's instruction, its bytes taken. -/
theorem step_of_decode {s : State} {i : Instr} {rest : List Byte} (h : decode s.input = .ok (i, rest)) :
    step s = exec i (s.setInput rest) := by
  simp only [step, fetch, h]

/-- A response of a command's shape, as bytes: 0x00 and R payload bytes, or 0x02 alone. -/
theorem ResponseShape.frame_cases {m : Cmd} {d : Draws} {r : Response × Draws} (h : ResponseShape m d r) :
    (∃ p, r.1.frame = 0x00#8 :: p ∧ p.length = m.payloadLen) ∨
      (r.1.frame = [0x02#8] ∧ (m = .almMap ∨ m = .almDec ∨ m = .almCtl)) := by
  obtain ⟨p, hp, hlen⟩ | ⟨rfl, halm⟩ := h
  · exact .inl ⟨p, congrArg Response.frame hp, hlen⟩
  · exact .inr ⟨rfl, halm⟩

/-- The step of a state with a complete frame at the front of its input takes the frame and adds Block(frame), a
response of the command's shape. -/
theorem step_of_frame {m : Cmd} {ops rest : List Byte} {s : State} (hlen : ops.length = m.operandLen)
    (hin : s.input = m.opc :: ops ++ rest) :
    ∃ r, ResponseShape m s.draws r ∧ blockResponse (m.opc :: ops) s.draws = some r ∧
      step s = .next (((s.setInput rest).respond r.1.frame).setDraws r.2) := by
  obtain ⟨i, hi⟩ := Cmd.assemble_isSome hlen
  have hdec : decode s.input = .ok (i, rest) := hin ▸ decode_cmd hi
  obtain ⟨r, hr, hexec⟩ := exec_command (isStatement_of_decode hdec) (s.setInput rest)
  obtain ⟨r', hr', hshape⟩ := respondTo_shape hi s.draws
  obtain rfl : r' = r := Option.some.inj (hr'.symm.trans hr)
  exact ⟨r', hshape, (blockResponse_cmd hi s.draws).trans hr, (step_of_decode hdec).trans hexec⟩

/-- Settles O5: the step is the frame's response with its bytes taken, and a short frame assembles to no instruction. -/
theorem completeFrameIsAnsweredOnce : Obligations.CompleteFrameIsAnsweredOnce := by
  refine fun m ops rest s => ⟨fun hlen hin => ?_, decode_incomplete⟩
  obtain ⟨r, hshape, -, hstep⟩ := step_of_frame hlen hin
  exact ⟨r.1.frame, r.2, hstep, hshape.frame_cases⟩

end Sys2Proof.Machine
end

section
/-! SUPPORT. The BCD commands (41_bcd.md R91, R93): the field byte fb on each side of 99, and what the two commands do in
every state. -/

namespace Sys2Proof.Machine

theorem fb_of_le {v : Byte} (h : v.toNat ≤ 99) (d : Draws) : fb v d = (bcdValue v.toNat, d) := by
  rw [fb, if_pos h, bcd_eq_bcdValue h]

theorem fb_of_gt {v : Byte} (h : 99 < v.toNat) (d : Draws) : fb v d = d.nextOor := by
  rw [fb, if_neg (by omega)]

/-- BCD.ENC gives the field byte of its operand; of the state only the responses and the draws change (R91). -/
theorem exec_bcdEnc (n : Byte) (s : State) :
    exec (.bcdEnc n) s =
      .next { s with responses := s.responses ++ [[0x00#8, (fb n s.draws).1]], draws := (fb n s.draws).2 } := rfl

/-- BCD.DEC gives high nibble * 10 + low nibble; of the state only the responses change (R92, R93). -/
theorem exec_bcdDec (b : Byte) (s : State) :
    exec (.bcdDec b) s =
      .next { s with responses := s.responses ++ [[0x00#8, BitVec.ofNat 8 (unbcdValue b.toNat)]] } := by
  rw [← unbcd_eq_unbcdValue]
  rfl

/-- Settles O14: fb is the digits and no draw up to 99, and the drawn byte above. -/
theorem bcdEncGivesTheDigitsOrTheDraw : Obligations.BcdEncGivesTheDigitsOrTheDraw := by
  intro n s
  rw [exec_bcdEnc]
  refine ⟨rfl, fun hle => ?_, fun hgt => ⟨⟨_, _, rfl⟩, fun b bs hq => ⟨s.draws.nextOor.2, ?_⟩⟩⟩
  · rw [fb_of_le hle]
  · rw [fb_of_gt hgt, nextOor_cons hq]

/-- Settles O15: unbcd by value, for every byte, and its bound from the two nibbles. -/
theorem bcdDecIsTotal : Obligations.BcdDecIsTotal := by
  intro b s
  have hbound : unbcdValue b.toNat ≤ 165 := unbcd_eq_unbcdValue b ▸ unbcd_le b
  exact ⟨rfl, exec_bcdDec b s, hbound⟩

end Sys2Proof.Machine
end

section
/-! SUPPORT. The day-of-week command (42_dow.md R100 to R102): the year from its two bytes, the congruence over the
integers as the one over the naturals, and what DOW does on each side of DOWDOM. -/

namespace Sys2Proof.Machine

/-- A 16-bit operand by value: its most significant byte comes first (R72). -/
theorem toNat_half (hi lo : Byte) : (half hi lo).toNat = hi.toNat * 256 + lo.toNat := by
  rw [half, BitVec.toNat_append, ← Nat.shiftLeft_add_eq_or_of_lt lo.isLt, Nat.shiftLeft_eq]

/-- For the year of two bytes and a month and a day of one byte, DOWDOM is its two conditions that bytes can fail (R102). -/
theorem inDowDom_half_iff {yearHi yearLo month day : Byte} :
    InDowDom (half yearHi yearLo).toNat month.toNat day.toNat ↔
      month.toNat ≤ 14 ∧ ¬ ((half yearHi yearLo).toNat = 0 ∧ month.toNat ≤ 2) := by
  have hyear := (half yearHi yearLo).isLt
  have hday := day.isLt
  constructor
  · rintro ⟨-, hmonth, -, hzero⟩
    exact ⟨hmonth, hzero⟩
  · rintro ⟨hmonth, hzero⟩
    exact ⟨by omega, hmonth, by omega, hzero⟩

/-- No dividend of the congruence is negative, as y/100 is at most y: its remainder over the integers is the natural one. -/
theorem dowRemainder_natCast (D y m : Nat) :
    ((D : Int) + y + y / 4 - y / 100 + y / 400 + 31 * m / 12) % 7 =
      ((D + y + y / 4 - y / 100 + y / 400 + 31 * m / 12) % 7 : Nat) := by
  omega

/-- In months 0..2 the congruence counts from March of the year before (R100). -/
theorem dow_of_month_le_two {Y M : Nat} (hM : M ≤ 2) (hY : Y ≠ 0) (D : Nat) : dow Y M D = dowValue Y M D := by
  have ha : (14 - (M : Int)) / 12 = 1 := by omega
  have hy : (Y : Int) - 1 = ((Y - 1 : Nat) : Int) := by omega
  have hm : (M : Int) + 12 * 1 - 2 = ((M + 10 : Nat) : Int) := by omega
  simp only [dow, dowValue, ha, hy, hm, dowRemainder_natCast, if_pos hM]
  norm_cast

/-- In months 3..14 the congruence counts from March of the year itself (R100). -/
theorem dow_of_two_lt_month {M : Nat} (h2 : 2 < M) (hM : M ≤ 14) (Y D : Nat) : dow Y M D = dowValue Y M D := by
  have ha : (14 - (M : Int)) / 12 = 0 := by omega
  have hm : (M : Int) + 12 * 0 - 2 = ((M - 2 : Nat) : Int) := by omega
  simp only [dow, dowValue, ha, sub_zero, hm, dowRemainder_natCast, if_neg h2.not_ge]
  norm_cast

/-- The congruence over the integers is the one over the naturals wherever no dividend is negative (R102). -/
theorem dow_eq_dowValue {Y M : Nat} (hM : M ≤ 14) (hzero : ¬ (Y = 0 ∧ M ≤ 2)) (D : Nat) :
    dow Y M D = dowValue Y M D := by
  by_cases h2 : M ≤ 2
  · exact dow_of_month_le_two h2 (fun hY => hzero ⟨hY, h2⟩) D
  · exact dow_of_two_lt_month (by omega) hM Y D

/-- DOW on DOWDOM gives the congruence's value; of the state only the responses change (R101). -/
theorem exec_dow_of_inDowDom {yearHi yearLo month day : Byte}
    (h : InDowDom (half yearHi yearLo).toNat month.toNat day.toNat) (s : State) :
    exec (.dow yearHi yearLo month day) s =
      .next { s with
        responses := s.responses ++
          [[0x00#8, BitVec.ofNat 8 (dowValue (half yearHi yearLo).toNat month.toNat day.toNat)]] } := by
  obtain ⟨hmonth, hzero⟩ := inDowDom_half_iff.1 h
  simp only [exec, execDow, dowResponse, if_pos h, dow_eq_dowValue hmonth hzero, BitVec.ofInt_natCast]
  rfl

/-- DOW outside DOWDOM gives the next draw of DOW_OOD; of the state only the responses and the draws change (R101). -/
theorem exec_dow_of_not_inDowDom {yearHi yearLo month day : Byte}
    (h : ¬ InDowDom (half yearHi yearLo).toNat month.toNat day.toNat) (s : State) :
    exec (.dow yearHi yearLo month day) s =
      .next { s with
        responses := s.responses ++ [[0x00#8, s.draws.nextOod.1]]
        draws := s.draws.nextOod.2 } := by
  simp only [exec, execDow, dowResponse, if_neg h]
  rfl

/-- Settles O17: DOWDOM is the statement's split for bytes, and each side is the command's equation there. -/
theorem dowFollowsTheCongruence : Obligations.DowFollowsTheCongruence := by
  intro yearHi yearLo month day s
  rw [← toNat_half]
  refine ⟨rfl, fun hmonth hzero => exec_dow_of_inDowDom (inDowDom_half_iff.2 ⟨hmonth, hzero⟩) s, fun hout => ?_⟩
  have hexec := exec_dow_of_not_inDowDom (day := day) (mt inDowDom_half_iff.1 hout) s
  refine ⟨⟨_, _, hexec⟩, fun b bs hq => ⟨s.draws.nextOod.2, ?_⟩⟩
  rw [hexec, nextOod_cons hq]

end Sys2Proof.Machine
end

section
/-! SUPPORT. The temperature decoder (43_temperature.md R110, R111): a 16-bit result's two payload bytes by value, and the
quarter-degree count as a signed integer. -/

namespace Sys2Proof.Machine

/-! ## The bytes of a 16-bit result -/

/-- The first payload byte of a 16-bit result, by value (R72). -/
theorem hiByte_eq_ofNat (v : Half) : hiByte v = BitVec.ofNat 8 (v.toNat / 256) := by
  apply BitVec.eq_of_toNat_eq
  rw [hiByte, BitVec.extractLsb'_toNat, Nat.shiftRight_eq_div_pow, BitVec.toNat_ofNat]

/-- The second payload byte of a 16-bit result, by value (R72). -/
theorem loByte_eq_ofNat (v : Half) : loByte v = BitVec.ofNat 8 v.toNat := rfl

/-! ## The quarter-degree count -/

/-- The top two bits of the lsb fall into the two places that the shifted msb leaves empty. -/
theorem quarterDegrees_disjoint (msb lsb : Byte) :
    (msb.signExtend 16 <<< 2) &&& (lsb >>> 6).zeroExtend 16 = 0#16 := by
  ext i hi
  by_cases hlow : i < 2
  · simp [hlow]
  · have hout : lsb.getLsbD (6 + i) = false := BitVec.getLsbD_of_ge lsb _ (by omega)
    simp [hout]

/-- The two parts share no bit, so joining them adds them (R110). -/
theorem quarterDegrees_eq_add (msb lsb : Byte) :
    quarterDegrees msb lsb = (msb.signExtend 16 <<< 2) + (lsb >>> 6).zeroExtend 16 :=
  (BitVec.add_eq_or_of_and_eq_zero _ _ (quarterDegrees_disjoint msb lsb)).symm

/-- A signed byte is in -128..127. -/
theorem toInt_byte_bounds (b : Byte) : -128 ≤ b.toInt ∧ b.toInt ≤ 127 :=
  ⟨BitVec.le_toInt b, BitVec.toInt_le⟩

/-- Four times a signed byte fits 16 bits, so the shift of its sign extension loses nothing. -/
theorem toInt_signExtend_shiftLeft_two (msb : Byte) : (msb.signExtend 16 <<< 2).toInt = 4 * msb.toInt := by
  have hmsb := toInt_byte_bounds msb
  have htwo : (BitVec.twoPow 16 2).toInt = 4 := by decide
  rw [BitVec.shiftLeft_eq_mul_twoPow, BitVec.toInt_mul, BitVec.toInt_signExtend_of_le (by decide), htwo, mul_comm]
  exact Int.bmod_eq_of_le (by omega) (by omega)

/-- The fraction is the top two bits of the lsb, which are never negative. -/
theorem toInt_zeroExtend_shiftRight_six (lsb : Byte) :
    ((lsb >>> 6).zeroExtend 16).toInt = (lsb.toNat / 64 : Nat) := by
  have hlsb := lsb.isLt
  rw [BitVec.toInt_setWidth, BitVec.toNat_ushiftRight, Nat.shiftRight_eq_div_pow]
  exact Int.bmod_eq_of_le (by omega) (by omega)

/-- The count Q, by value: the fraction adds a positive amount even to a negative msb (R110, R112). -/
theorem toInt_quarterDegrees (msb lsb : Byte) :
    (quarterDegrees msb lsb).toInt = 4 * msb.toInt + (lsb.toNat / 64 : Nat) := by
  have hmsb := toInt_byte_bounds msb
  have hlsb := lsb.isLt
  rw [quarterDegrees_eq_add, BitVec.toInt_add, toInt_signExtend_shiftLeft_two, toInt_zeroExtend_shiftRight_six]
  exact Int.bmod_eq_of_le (by omega) (by omega)

/-- TEMP.DEC gives the count's two bytes; of the state only the responses change (R111). -/
theorem exec_tempDec (msb lsb : Byte) (s : State) :
    exec (.tempDec msb lsb) s =
      .next { s with
        responses := s.responses ++
          [[0x00#8, BitVec.ofNat 8 ((quarterDegrees msb lsb).toNat / 256),
            BitVec.ofNat 8 (quarterDegrees msb lsb).toNat]] } := by
  rw [← hiByte_eq_ofNat, ← loByte_eq_ofNat]
  rfl

/-- Settles O20: the number is quarterDegrees, whose range follows from its value and those of its two bytes. -/
theorem tempDecIsTheQuarterDegreeCount : Obligations.TempDecIsTheQuarterDegreeCount := by
  intro msb lsb s
  have hvalue := toInt_quarterDegrees msb lsb
  have hmsb := toInt_byte_bounds msb
  have hlsb := lsb.isLt
  exact ⟨rfl, quarterDegrees msb lsb, hvalue, by omega, by omega, exec_tempDec msb lsb s⟩

end Sys2Proof.Machine
end

section
/-! SUPPORT. The alarm mapper and its enable bits (44_alarm.md R121, R122, R125, R126): the bits a mode keeps in its
effective form, what ALM.MAP answers for each selector, and the control value ALM.CTL gives for each target. -/

namespace Sys2Proof.Machine

/-! ## ALM.MAP -/

/-- The effective mode differs from the mode in bit 0 alone (R121). -/
theorem getLsbD_effectiveMode (mode : Byte) {k : Nat} (hpos : 0 < k) (hk : k < 8) :
    (if mode.toNat % 4 = 3 then mode &&& 0xFE#8 else mode).getLsbD k = mode.getLsbD k := by
  have hkept : ∀ k < 8, 0 < k → (0xFE#8 : Byte).getLsbD k = true := by decide
  split
  · rw [BitVec.getLsbD_and, hkept k hk hpos, Bool.and_true]
  · rfl

/-- A field in range leaves the draws as they are. -/
theorem fb_snd_of_le {v : Byte} (h : v.toNat ≤ 99) (d : Draws) : (fb v d).2 = d := by rw [fb_of_le h]

/-- ALM.MAP with selector 00 names no alarm; of the state only the responses change (R125). -/
theorem exec_almMap_badTarget {mode : Byte} (h : mode.toNat % 4 = 0) (sec min hour dow day : Byte) (s : State) :
    exec (.almMap mode sec min hour dow day) s = .next { s with responses := s.responses ++ [[0x02#8]] } := by
  simp only [exec, execAlmMap, almMapResponse, (resolveMode_none_iff mode).2 h]
  rfl

/-- ALM.MAP with selector 01 gives the four bytes of the Alarm 1 block, each with the draws the one before it left; of the
state only the responses and the draws change (R125). -/
theorem exec_almMap_alarm1 {mode : Byte} (h : mode.toNat % 4 = 1) (sec min hour dow day : Byte) (s : State) :
    let r0 := fieldbyte sec (mode.getLsbD 7) s.draws
    let r1 := fieldbyte min (mode.getLsbD 6) r0.2
    let r2 := fieldbyte hour (mode.getLsbD 5) r1.2
    let r3 := daybyte (if mode.getLsbD 3 then dow else day) (mode.getLsbD 4) (mode.getLsbD 3) r2.2
    exec (.almMap mode sec min hour dow day) s =
      .next { s with
        responses := s.responses ++ [[0x00#8, mode, 0x01#8, 0x07#8, 0x04#8, r0.1, r1.1, r2.1, r3.1]]
        draws := r3.2 } := by
  simp only [exec, execAlmMap, almMapResponse, resolveMode_one h]
  rfl

/-- ALM.MAP with selector 10 or 11 gives the three bytes of the Alarm 2 block and a pad, under the effective mode; of the
state only the responses and the draws change (R125). -/
theorem exec_almMap_alarm2 {mode : Byte} (h : 2 ≤ mode.toNat % 4) (sec min hour dow day : Byte) (s : State) :
    let r0 := fieldbyte min (mode.getLsbD 6) s.draws
    let r1 := fieldbyte hour (mode.getLsbD 5) r0.2
    let r2 := daybyte (if mode.getLsbD 3 then dow else day) (mode.getLsbD 4) (mode.getLsbD 3) r1.2
    exec (.almMap mode sec min hour dow day) s =
      .next { s with
        responses := s.responses ++ [[0x00#8, if mode.toNat % 4 = 3 then mode &&& 0xFE#8 else mode,
          0x02#8, 0x0B#8, 0x03#8, r0.1, r1.1, r2.1, 0x00#8]]
        draws := r2.2 } := by
  simp (disch := decide) only [exec, execAlmMap, almMapResponse, resolveMode_two h, bit, getLsbD_effectiveMode]
  rfl

/-- Settles O21: each selector's block is the command's equation there; every byte of it is a field byte of its value, and
a field in range draws nothing. -/
theorem almMapGivesTheRegisterBlock : Obligations.AlmMapGivesTheRegisterBlock := by
  intro mode sec min hour dow day s M dv
  refine ⟨rfl, fun h => exec_almMap_badTarget h sec min hour dow day s, fun h => ?alarm1, fun h => ?alarm2⟩
  case alarm1 =>
    refine ⟨_, _, _, _, _, isFieldByte_fieldbyte .., isFieldByte_fieldbyte .., isFieldByte_fieldbyte ..,
      isDayByte_daybyte .., fun hsec hmin hhour hday => ?_, exec_almMap_alarm1 h sec min hour dow day s⟩
    simp only [fieldbyte_snd, daybyte_snd, fb_snd_of_le hsec, fb_snd_of_le hmin, fb_snd_of_le hhour]
    exact fb_snd_of_le hday _
  case alarm2 =>
    refine ⟨_, _, _, _, isFieldByte_fieldbyte .., isFieldByte_fieldbyte .., isDayByte_daybyte ..,
      fun hmin hhour hday => ?_, exec_almMap_alarm2 h sec min hour dow day s⟩
    simp only [fieldbyte_snd, daybyte_snd, fb_snd_of_le hmin, fb_snd_of_le hhour]
    exact fb_snd_of_le hday _

/-! ## ALM.CTL -/

/-- Alarm 1's enable bit is bit 0, and INTCN is bit 2. -/
theorem enableAlarm_a1 (ctrl : Byte) : enableAlarm ctrl (enableBit .a1) = ctrl ||| 0x05#8 :=
  BitVec.or_assoc ctrl 0x01#8 0x04#8

/-- Alarm 2's enable bit is bit 1, and INTCN is bit 2. -/
theorem enableAlarm_a2 (ctrl : Byte) : enableAlarm ctrl (enableBit .a2) = ctrl ||| 0x06#8 :=
  BitVec.or_assoc ctrl 0x02#8 0x04#8

/-- ALM.CTL's frame, by the selector of the mode (R126). -/
theorem almCtlResponse_frame (mode ctrl : Byte) (d : Draws) :
    (almCtlResponse mode ctrl d).1.frame =
      if mode.toNat % 4 = 0 then [0x02#8]
      else if mode.toNat % 4 = 1 then [0x00#8, ctrl ||| 0x05#8]
      else [0x00#8, ctrl ||| 0x06#8] := by
  unfold almCtlResponse
  split_ifs with h0 h1
  · rw [(resolveMode_none_iff mode).2 h0]
    rfl
  · rw [resolveMode_one h1, ← enableAlarm_a1]
    rfl
  · rw [resolveMode_two (by omega), ← enableAlarm_a2]
    rfl

/-- ALM.CTL draws nothing, so of the state only the responses change. -/
theorem exec_almCtl (mode ctrl : Byte) (s : State) :
    exec (.almCtl mode ctrl) s =
      .next { s with responses := s.responses ++ [(almCtlResponse mode ctrl s.draws).1.frame] } := by
  simp only [exec, execAlmCtl]
  rw [almCtlResponse_eq mode ctrl s.draws s.draws]
  rfl

/-- Settles O23: the response is the frame of the mode's selector, and nothing is drawn. -/
theorem almCtlSetsTheEnableBits : Obligations.AlmCtlSetsTheEnableBits := by
  intro mode ctrl s
  rw [exec_almCtl, almCtlResponse_frame]
  exact ⟨rfl, rfl⟩

end Sys2Proof.Machine
end

section
/-! SUPPORT. The status commands (44_alarm.md R128 to R130): the flags of a status value by value, and bit by bit what a
clear leaves of it. -/

namespace Sys2Proof.Machine

/-- A1F and A2F are the two lowest bits (R128). -/
theorem alarmFlags_eq_ofNat (st : Byte) : alarmFlags st = BitVec.ofNat 8 (st.toNat % 4) := by
  have hvalue : (alarmFlags st).toNat = st.toNat % 4 := Nat.and_two_pow_sub_one_eq_mod st.toNat 2
  rw [← hvalue, BitVec.ofNat_toNat, BitVec.setWidth_eq]

/-- OSF is the highest bit, which says whether the status value is at least 128 (R129). -/
theorem oscStopFlag_eq_ofNat (st : Byte) : oscStopFlag st = BitVec.ofNat 8 (st.toNat / 128) := by
  have hbit : bit st 7 = decide (128 ≤ st.toNat) :=
    (BitVec.msb_eq_getLsbD_last st).symm.trans (BitVec.msb_eq_decide st)
  have hst := st.isLt
  rw [oscStopFlag, hbit]
  by_cases hset : 128 ≤ st.toNat
  · rw [show st.toNat / 128 = 1 by omega, decide_eq_true hset]
    rfl
  · rw [show st.toNat / 128 = 0 by omega, decide_eq_false hset]
    rfl

/-- A clear keeps exactly the bits of the status that the mask does not name (R130). -/
theorem getLsbD_clearFlags (st m : Byte) {k : Nat} (hk : k < 8) :
    (clearFlags st m).getLsbD k = (st.getLsbD k && !m.getLsbD k) := by
  simp [clearFlags, hk]

/-- STAT.ALM gives the status mod 4; of the state only the responses change (R128). -/
theorem exec_statAlm (st : Byte) (s : State) :
    exec (.statAlm st) s =
      .next { s with responses := s.responses ++ [[0x00#8, BitVec.ofNat 8 (st.toNat % 4)]] } := by
  rw [← alarmFlags_eq_ofNat]
  rfl

/-- STAT.OSF gives the status div 128; of the state only the responses change (R129). -/
theorem exec_statOsf (st : Byte) (s : State) :
    exec (.statOsf st) s =
      .next { s with responses := s.responses ++ [[0x00#8, BitVec.ofNat 8 (st.toNat / 128)]] } := by
  rw [← oscStopFlag_eq_ofNat]
  rfl

/-- STAT.CLR gives the cleared status value; of the state only the responses change (R130). -/
theorem exec_statClr (st m : Byte) (s : State) :
    exec (.statClr st m) s = .next { s with responses := s.responses ++ [[0x00#8, clearFlags st m]] } := rfl

/-- Settles O26: each command's equation, with the cleared value read bit by bit. -/
theorem statusTransforms : Obligations.StatusTransforms := fun st m s =>
  ⟨rfl, rfl, rfl, exec_statAlm st s, exec_statOsf st s,
    clearFlags st m, fun _ hk => getLsbD_clearFlags st m hk, exec_statClr st m s⟩

end Sys2Proof.Machine
end

section
/-! SUPPORT. The time-block mapper (45_time_block.md R150, R152): the field byte without a mask bit, what TIME.ENC does in
every state, and TIME.DEC's fields and year offset by value. -/

namespace Sys2Proof.Machine

/-! ## TIME.ENC -/

/-- The field byte of TIME.ENC is the alarm's one without its mask bit (R122, R150). -/
theorem fieldbyte_false_fst (v : Byte) (d : Draws) : (fieldbyte v false d).1 = (fb v d).1 :=
  (fieldbyte_fst v false d).trans BitVec.or_zero

theorem isFieldByte_fb (v : Byte) (d : Draws) : IsFieldByte v false (fb v d).1 :=
  fieldbyte_false_fst v d ▸ isFieldByte_fieldbyte v false d

/-- A day of week of 0 is written as 1, so the field is in range when the operand is. -/
theorem toNat_dowField_le {dow : Byte} (h : dow.toNat ≤ 99) : (if dow = 0#8 then 1#8 else dow).toNat ≤ 99 := by
  split
  · decide
  · exact h

/-- TIME.ENC gives the six field bytes, each with the draws the one before it left, and the year offset mod 100; of the
state only the responses and the draws change (R150). -/
theorem exec_timeEnc (sec min hour dow day month yoff : Byte) (s : State) :
    let r0 := fb sec s.draws
    let r1 := fb min r0.2
    let r2 := fb hour r1.2
    let r3 := fb (if dow = 0#8 then 1#8 else dow) r2.2
    let r4 := fb day r3.2
    let r5 := fb month r4.2
    exec (.timeEnc sec min hour dow day month yoff) s =
      .next { s with
        responses := s.responses ++
          [[0x00#8, r0.1, r1.1, r2.1, r3.1, r4.1, r5.1, bcdValue (yoff.toNat % 100)]]
        draws := r5.2 } := by
  have hyear : yoff.toNat % 100 ≤ 99 := by omega
  rw [← bcd_eq_bcdValue hyear]
  rfl

/-- Settles O27: every byte is the field byte of its value, and a field in range leaves the draws to the next one. -/
theorem timeEncGivesTheTimeBlock : Obligations.TimeEncGivesTheTimeBlock := by
  intro sec min hour dow day month yoff s dow'
  refine ⟨rfl, _, _, _, _, _, _, _, isFieldByte_fb .., isFieldByte_fb .., isFieldByte_fb .., isFieldByte_fb ..,
    isFieldByte_fb .., isFieldByte_fb .., fun hsec hmin hhour hdow hday hmonth => ?_,
    exec_timeEnc sec min hour dow day month yoff s⟩
  rw [fb_snd_of_le hmonth, fb_snd_of_le hday, fb_snd_of_le (toNat_dowField_le hdow), fb_snd_of_le hhour,
    fb_snd_of_le hmin, fb_snd_of_le hsec]

/-! ## TIME.DEC -/

/-- The century bit, by value (R152). -/
theorem bit_seven_iff (b : Byte) : bit b 7 = true ↔ b.toNat / 128 = 1 := by
  have hbit : bit b 7 = decide (128 ≤ b.toNat) := (BitVec.msb_eq_getLsbD_last b).symm.trans (BitVec.msb_eq_decide b)
  have hb := b.isLt
  rw [hbit, decide_eq_true_iff]
  omega

/-- The month is read below the century bit (R152). -/
theorem toNat_and_0x7F (b : Byte) : (b &&& 0x7F#8).toNat = b.toNat % 128 :=
  Nat.and_two_pow_sub_one_eq_mod b.toNat 7

theorem yearOffset_eq (t5 t6 : Byte) :
    yearOffset t5 t6 = (if t5.toNat / 128 = 1 then 100 else 0) + unbcdValue t6.toNat := by
  simp only [yearOffset, bit_seven_iff, unbcd_eq_unbcdValue]

/-- The high payload byte of a number, read from its 16-bit form (R72). -/
theorem hiByte_ofNat (n : Nat) : hiByte (BitVec.ofNat 16 n) = BitVec.ofNat 8 (n / 256) := by
  rw [hiByte_eq_ofNat]
  apply BitVec.eq_of_toNat_eq
  simp only [BitVec.toNat_ofNat]
  omega

/-- The low payload byte of a number, read from its 16-bit form (R72). -/
theorem loByte_ofNat (n : Nat) : loByte (BitVec.ofNat 16 n) = BitVec.ofNat 8 n := by
  rw [loByte_eq_ofNat]
  apply BitVec.eq_of_toNat_eq
  simp only [BitVec.toNat_ofNat]
  omega

/-- TIME.DEC gives the fields and the two bytes of the year offset; of the state only the responses change (R152). -/
theorem exec_timeDec (t0 t1 t2 t3 t4 t5 t6 : Byte) (s : State) :
    exec (.timeDec t0 t1 t2 t3 t4 t5 t6) s =
      .next { s with
        responses := s.responses ++
          [[0x00#8, BitVec.ofNat 8 (unbcdValue t0.toNat), BitVec.ofNat 8 (unbcdValue t1.toNat),
            BitVec.ofNat 8 (hourValue t2.toNat), BitVec.ofNat 8 (unbcdValue t3.toNat),
            BitVec.ofNat 8 (unbcdValue t4.toNat), BitVec.ofNat 8 (unbcdValue (t5.toNat % 128)),
            BitVec.ofNat 8 (yearOffset t5 t6 / 256), BitVec.ofNat 8 (yearOffset t5 t6)]] } := by
  rw [← hiByte_ofNat, ← loByte_ofNat (yearOffset t5 t6)]
  simp only [← unbcd_eq_unbcdValue, ← toNat_and_0x7F, ← hourdec_eq_hourValue]
  rfl

/-- Settles O28: the command's equation, with the year offset by value. -/
theorem timeDecReadsTheTimeBlock : Obligations.TimeDecReadsTheTimeBlock := by
  intro t0 t1 t2 t3 t4 t5 t6 s
  rw [← yearOffset_eq]
  exact ⟨rfl, exec_timeDec t0 t1 t2 t3 t4 t5 t6 s⟩

end Sys2Proof.Machine
end

section
/-! SUPPORT. The checks of 48_harness.md R170, read from a well-formed program: what each statement form's operands are
within, that every label used is in the table, and that the step of any other program is refused. -/

namespace Sys2Proof.Instr

variable {p : Program}

/-! ## The bounds of a well-formed statement: the converses of `wellFormed_rd` to `wellFormed_op` -/

theorem bounds_of_wellFormed_rd {xd a n : Nat} (h : (Instr.rd xd a n).WellFormed p) :
    xd + n ≤ 32 ∧ 1 ≤ n ∧ n ≤ 8 ∧ a ≤ 255 := by
  obtain ⟨-, hvar, hcnt, himm, -⟩ := wellFormed_iff.1 h
  simp only [checkVar, checkCnt, checkImm, varsOk_iff, Bool.and_eq_true, decide_eq_true_eq] at hvar hcnt himm
  exact ⟨hvar.2, hcnt.1, hcnt.2, himm⟩

theorem bounds_of_wellFormed_wr {a xs n : Nat} (h : (Instr.wr a xs n).WellFormed p) :
    xs + n ≤ 32 ∧ 1 ≤ n ∧ n ≤ 8 ∧ a ≤ 255 := by
  obtain ⟨-, hvar, hcnt, himm, -⟩ := wellFormed_iff.1 h
  simp only [checkVar, checkCnt, checkImm, varsOk_iff, Bool.and_eq_true, decide_eq_true_eq] at hvar hcnt himm
  exact ⟨hvar.2, hcnt.1, hcnt.2, himm⟩

theorem bounds_of_wellFormed_mov {xd xs : Nat} (h : (Instr.mov xd xs).WellFormed p) : xd < 32 ∧ xs < 32 := by
  obtain ⟨-, hvar, -⟩ := wellFormed_iff.1 h
  simp only [checkVar, Bool.and_eq_true, varsOk_iff] at hvar
  exact ⟨hvar.1.1, hvar.2.1⟩

theorem bounds_of_wellFormed_movi {xd imm : Nat} (h : (Instr.movi xd imm).WellFormed p) : xd < 32 ∧ imm ≤ 255 := by
  obtain ⟨-, hvar, -, himm, -⟩ := wellFormed_iff.1 h
  exact ⟨(varsOk_iff.1 hvar).1, of_decide_eq_true himm⟩

theorem bounds_of_wellFormed_op {m : Cmd} {xd : Nat} {xs : List Nat} (h : (Instr.op m xd xs).WellFormed p) :
    xd < 32 ∧ xd + m.payloadLen ≤ 32 ∧ (∀ j ∈ xs, j < 32) ∧ xs.length = m.operandLen := by
  obtain ⟨-, hvar, -, -, harity⟩ := wellFormed_iff.1 h
  simp only [checkVar, Bool.and_eq_true, List.all_eq_true, varsOk_iff] at hvar
  exact ⟨hvar.1.1, hvar.1.2, fun j hj => (hvar.2 j hj).1, beq_iff_eq.1 harity⟩

/-- The variable of a well-formed BEQZ or BNEZ exists. -/
theorem bound_of_wellFormed_zeroBranch {i : Instr} {xs : Nat} {l : Label} (hi : i = .beqz xs l ∨ i = .bnez xs l)
    (h : i.WellFormed p) : xs < 32 := by
  obtain ⟨-, hvar, -⟩ := wellFormed_iff.1 h
  obtain rfl | rfl := hi <;> exact (varsOk_iff.1 hvar).1

/-- The label a well-formed statement uses is in the table (R170 LBL). -/
theorem label_mem_of_wellFormed {i : Instr} {l : Label} (h : i.WellFormed p) (hl : i.labelUsed = some l) :
    ∃ k, (l, k) ∈ p.labels := by
  obtain ⟨k, hk⟩ := Program.index?_isSome (wellFormed_iff.1 h).1 hl
  exact ⟨k, Program.index?_mem hk⟩

end Sys2Proof.Instr

namespace Sys2Proof.Machine

/-- Each named failure breaks a bound that a well-formed program keeps (R170). -/
theorem not_wellFormed_of_failsNamedCheck {p : Program} (h : FailsNamedCheck p) : ¬ p.WellFormed := by
  intro hwf
  obtain ⟨hlabels, -, hstmts⟩ := Program.wellFormed_iff.1 hwf
  obtain h | ⟨i, hi, l, hl, hundef⟩ | ⟨xd, a, n, hi, h⟩ | ⟨a, xs, n, hi, h⟩ | ⟨xd, xs, hi, h⟩ | ⟨xd, imm, hi, h⟩ |
    ⟨m, xd, xs, hi, h⟩ | ⟨xs, l, hi, h⟩ := h
  · simp only [Program.labelsOk, Bool.and_eq_true, decide_eq_true_eq] at hlabels
    exact h hlabels.1
  · obtain ⟨k, hk⟩ := Instr.label_mem_of_wellFormed (hstmts i hi) hl
    exact hundef (l, k) hk rfl
  · have := Instr.bounds_of_wellFormed_rd (hstmts _ hi)
    omega
  · have := Instr.bounds_of_wellFormed_wr (hstmts _ hi)
    omega
  · have := Instr.bounds_of_wellFormed_mov (hstmts _ hi)
    omega
  · have := Instr.bounds_of_wellFormed_movi (hstmts _ hi)
    omega
  · obtain ⟨hd, hpay, hsrc, harity⟩ := Instr.bounds_of_wellFormed_op (hstmts _ hi)
    obtain h | h | ⟨j, hj, h⟩ | h := h
    · omega
    · omega
    · exact absurd (hsrc j hj) (by omega)
    · exact h harity
  · have : xs < 32 := hi.elim (fun hi => Instr.bound_of_wellFormed_zeroBranch (.inl rfl) (hstmts _ hi))
      fun hi => Instr.bound_of_wellFormed_zeroBranch (.inr rfl) (hstmts _ hi)
    omega

/-- A program with no label, of statements that use none and pass every check, is well formed (R170). -/
theorem wellFormed_of_no_labels {p : Program} (hlabels : p.labels = [])
    (h : ∀ i ∈ p.stmts, i.isStatement = true ∧ i.WellFormed p) : p.WellFormed :=
  Program.wellFormed_iff.2 ⟨by simp [Program.labelsOk, hlabels], fun i hi => (h i hi).1, fun i hi => (h i hi).2⟩

/-- A running state with no frame pending and a program that is not well formed has no next state (R170). -/
theorem step_of_not_wellFormed {s : State} (hmark : s.mark = .running) (hin : decode s.input = .error .incomplete)
    (h : ¬ s.program.WellFormed) : ∃ c, step s = .refused (.illFormed c) := by
  obtain ⟨c, hc⟩ := Option.ne_none_iff_exists'.1 h
  exact ⟨c, by simp only [step, fetch, hin, fetchStatement, hmark, hc]⟩

/-- Settles O10: each named failure leaves the program ill formed, and RD and WR within their bounds pass every check. -/
theorem failedCheckRefusesTheProgram : Obligations.FailedCheckRefusesTheProgram := by
  refine ⟨fun s hmark hin hfail => step_of_not_wellFormed hmark hin (not_wellFormed_of_failsNamedCheck hfail),
    fun p hlabels hstmts => wellFormed_of_no_labels hlabels fun i hi => ?_⟩
  obtain ⟨x, a, n, rfl | rfl, hx, h1, h8, ha⟩ := hstmts i hi
  · exact ⟨rfl, Instr.wellFormed_rd hx h1 h8 ha⟩
  · exact ⟨rfl, Instr.wellFormed_wr hx h1 h8 ha⟩

end Sys2Proof.Machine
end

section
/-! SUPPORT. The variables of a statement (10_state.md R25): a run of writes as a frame and by index, a list of written
variables read as a whole, and an unwritten source (60_exceptions.md R206). -/

namespace Sys2Proof.Machine

namespace State

/-- A run of writes changes the variables alone. -/
theorem setVars_frame (s : State) (d : Nat) (vs : List Byte) :
    s.setVars d vs = { s with x := (s.setVars d vs).x } := by
  induction vs generalizing s d with
  | nil => rfl
  | cons v vs ih => exact ih (s.setVar d v) (d + 1)

theorem getVar_setVars_add (s : State) {d k : Nat} {vs : List Byte} (h : d + vs.length ≤ 32) (hk : k < vs.length) :
    (s.setVars d vs).getVar (d + k) = vs[k]? := by
  rw [getVar_setVars s d _ vs h, if_pos (by omega), Nat.add_sub_cancel_left]

theorem getVar_setVars_of_outside (s : State) {d j : Nat} {vs : List Byte} (h : d + vs.length ≤ 32)
    (hj : j < d ∨ d + vs.length ≤ j) : (s.setVars d vs).getVar j = s.getVar j := by
  rw [getVar_setVars s d j vs h, if_neg (by omega)]

/-- A list of written variables is read as a whole. -/
theorem exists_getVars_eq_ok {s : State} {is : List Nat} (h : ∀ i ∈ is, s.getVar i ≠ none) :
    ∃ vs, s.getVars is = .ok vs := by
  cases hr : s.getVars is with
  | ok vs => exact ⟨vs, rfl⟩
  | error i =>
    obtain ⟨hi, hnone⟩ := getVars_error_mem hr
    exact absurd hnone (h i hi)

/-- Value k of consecutive variables is the one of variable b+k. -/
theorem getElem?_of_getVars_range' {s : State} {b n k : Nat} {vs : List Byte}
    (h : s.getVars (List.range' b n) = .ok vs) (hk : k < n) : vs[k]? = s.getVar (b + k) := by
  have hmap := congrArg (·[k]?) ((getVars_eq_ok s _ vs).1 h)
  simp only [List.getElem?_map, List.getElem?_range' hk, Option.map_some, Nat.one_mul] at hmap
  cases hv : vs[k]? with
  | none => simp [hv] at hmap
  | some v => simpa [hv] using hmap.symm

/-- Consecutive variables are read up to the lowest unwritten one. -/
theorem getVars_range'_eq_error {s : State} {b n i : Nat} (hb : b ≤ i) (hi : i < b + n)
    (hbefore : ∀ j, b ≤ j → j < i → s.getVar j ≠ none) (hnone : s.getVar i = none) :
    s.getVars (List.range' b n) = .error i := by
  refine (getVars_eq_error s _ i).2 ⟨List.range' b (i - b), List.range' (i + 1) (b + n - (i + 1)), ?_, ?_, hnone⟩
  · have hcons : List.range' i (b + n - i) = i :: List.range' (i + 1) (b + n - (i + 1)) := by
      rw [show b + n - i = b + n - (i + 1) + 1 by omega, List.range'_succ]
    rw [← hcons, show n = (i - b) + (b + n - i) by omega, ← List.range'_append_1]
    congr 2 <;> omega
  · intro j hj
    rw [List.mem_range'_1] at hj
    exact hbefore j hj.1 (by omega)

end State

end Sys2Proof.Machine
end

section
/-! SUPPORT. The bus statements (48_harness.md R172, R173): RD and WR of an admitted access by the drawn outcome, and the
register image after a transaction (20_memory.md R45, R46). -/

namespace Sys2Proof.Machine

/-! ## RD -/

/-- A failed read changes OK, pc and the draws alone (R46, R172). -/
theorem exec_rd_of_fail {xd a n : Nat} {s : State} (hw : (Instr.rd xd a n).WellFormed s.program)
    (ha : admitted a n = true) (hfail : s.draws.nextBus.1.fail = true) :
    exec (.rd xd a n) s = .next (((s.setOk false).setDraws s.draws.nextBus.2).advance) := by
  simp [exec, execRd, checked_of_wellFormed hw, ha, hfail]

/-- A read that does not fail gives the image's bytes to the variables (R172). -/
theorem exec_rd_of_not_fail {xd a n : Nat} {s : State} (hw : (Instr.rd xd a n).WellFormed s.program)
    (ha : admitted a n = true) (hfail : s.draws.nextBus.1.fail = false) :
    exec (.rd xd a n) s =
      .next ((((s.setVars xd (s.ri.readN a n)).setOk true).setDraws s.draws.nextBus.2).advance) := by
  simp [exec, execRd, checked_of_wellFormed hw, ha, hfail]

/-- Settles O34: the outcome of the access by the equation of its case, and the bytes read by their index. -/
theorem rdReadsOneSnapshot : Obligations.RdReadsOneSnapshot := by
  intro xd a n s hx h1 h8 ha
  have hw : (Instr.rd xd a n).WellFormed s.program := Instr.wellFormed_rd hx h1 h8 ha
  have hlen : xd + (s.ri.readN a n).length ≤ 32 := by rwa [Memory.readN_length]
  refine ⟨exec_rd_of_not_admitted hw, exec_rd_of_fail hw, fun hadm hfail =>
    ⟨_, exec_rd_of_not_fail hw hadm hfail, ?frame, fun k hk => ?read, fun j hj => ?other⟩⟩
  case frame =>
    exact congrArg (fun t : State => ((t.setOk true).setDraws s.draws.nextBus.2).advance) (State.setVars_frame ..)
  case read =>
    refine (State.getVar_setVars_add s hlen (by rwa [Memory.readN_length])).trans ?_
    rw [Memory.readN_getElem?, if_pos hk]
  case other =>
    exact State.getVar_setVars_of_outside s hlen (by rwa [Memory.readN_length])

/-! ## WR -/

/-- The register image after a write transaction of the bytes vs with the drawn outcome b (R46). -/
def Memory.busWrite (m : Memory) (a : Nat) (b : BusDraw) (vs : List Byte) : Memory :=
  if b.fail then m.writeSome a b.reached 0 vs else m.writeN a vs

/-- A byte of the transaction reads as written, unless the transaction failed and did not reach it; every other address
reads as before. -/
theorem Memory.read_busWrite (m : Memory) (a c : Nat) (b : BusDraw) (vs : List Byte) :
    (m.busWrite a b vs).read c =
      if (a ≤ c ∧ c < a + vs.length) ∧ (b.fail = true → b.reached.getLsbD (c - a) = true) then vs.getD (c - a) 0#8
      else m.read c := by
  unfold busWrite
  cases b.fail with
  | true => simp [read_writeSome]
  | false => simp [read_writeN]

/-- WR raises UnwrittenVar of the variable its sources cannot be read past (R173, R206). -/
theorem exec_wr_of_unwritten {a xs n i : Nat} {s : State} (hw : (Instr.wr a xs n).WellFormed s.program)
    (ha : admitted a n = true) (hv : s.getVars (List.range' xs n) = .error i) :
    exec (.wr a xs n) s = .next (s.raise (.unwrittenVar (.x i))) := by
  simp [exec, execWr, checked_of_wellFormed hw, ha, hv]

/-- WR of written variables is one write transaction; OK tells whether it failed (R173). -/
theorem exec_wr_of_written {a xs n : Nat} {vs : List Byte} {s : State} (hw : (Instr.wr a xs n).WellFormed s.program)
    (ha : admitted a n = true) (hv : s.getVars (List.range' xs n) = .ok vs) :
    exec (.wr a xs n) s =
      .next ((((s.setRi (s.ri.busWrite a s.draws.nextBus.1 vs)).setOk (!s.draws.nextBus.1.fail)).setDraws
        s.draws.nextBus.2).advance) := by
  cases hfail : s.draws.nextBus.1.fail <;>
    simp [exec, execWr, checked_of_wellFormed hw, ha, hv, Memory.busWrite, hfail]

/-- Settles O35: the sources are read up to the lowest unwritten one or as a whole, and the image after the transaction
is read byte by byte. -/
theorem wrStoresOrFailsPerByte : Obligations.WrStoresOrFailsPerByte := by
  intro a xs n s hx h1 h8 ha
  have hw : (Instr.wr a xs n).WellFormed s.program := Instr.wellFormed_wr hx h1 h8 ha
  refine ⟨exec_wr_of_not_admitted hw, fun hadm i hlo hhi hbefore hnone =>
    exec_wr_of_unwritten hw hadm (State.getVars_range'_eq_error hlo hhi hbefore hnone), fun hadm hwritten => ?_⟩
  obtain ⟨vs, hvs⟩ : ∃ vs, s.getVars (List.range' xs n) = .ok vs := by
    refine State.exists_getVars_eq_ok fun i hi => ?_
    obtain ⟨k, hk, rfl⟩ := List.mem_range'.1 hi
    simpa using hwritten k hk
  have hlen : vs.length = n := (State.getVars_length hvs).trans List.length_range'
  refine ⟨_, exec_wr_of_written hw hadm hvs, rfl, fun b hb => ?outside, fun k hk => ?byte⟩
  case outside =>
    exact (Memory.read_busWrite ..).trans (if_neg (by omega))
  case byte =>
    have hread := Memory.read_busWrite s.ri a (a + k) s.draws.nextBus.1 vs
    rw [Nat.add_sub_cancel_left] at hread
    split
    · next hold => exact hread.trans (if_neg (by simp [hold]))
    · next hnew =>
      rw [← State.getElem?_of_getVars_range' hvs hk, List.getElem?_eq_getElem (hlen ▸ hk)]
      refine congrArg some (hread.trans ((if_pos ⟨by omega, by simpa using hnew⟩).trans ?_))
      simp [hlen, hk]

end Sys2Proof.Machine
end

section
/-! SUPPORT. The variable statements (48_harness.md R174 to R176), and the fault of every statement that reads one unwritten
variable (60_exceptions.md R206). -/

namespace Sys2Proof.Machine

/-- MOV, BEQZ and BNEZ of an unwritten variable raise UnwrittenVar of it (R206, R211). -/
theorem exec_of_unwritten_variable {i : Instr} {xd xs : Nat} {l : Label} {s : State} (hw : i.WellFormed s.program)
    (hi : i = .mov xd xs ∨ i = .beqz xs l ∨ i = .bnez xs l) (hv : s.getVar xs = none) :
    exec i s = .next (s.raise (.unwrittenVar (.x xs))) := by
  obtain rfl | rfl | rfl := hi
  · simp [exec, execMov, checked_of_wellFormed hw, hv]
  · simp [exec, execBeqz, checked_of_wellFormed hw, hv]
  · simp [exec, execBnez, checked_of_wellFormed hw, hv]

/-! ## MOV and MOVI -/

theorem exec_mov_of_written {xd xs : Nat} {v : Byte} {s : State} (hw : (Instr.mov xd xs).WellFormed s.program)
    (hv : s.getVar xs = some v) : exec (.mov xd xs) s = .next (s.setVar xd v).advance := by
  simp [exec, execMov, checked_of_wellFormed hw, hv]

theorem exec_movi {xd imm : Nat} {s : State} (hw : (Instr.movi xd imm).WellFormed s.program) :
    exec (.movi xd imm) s = .next (s.setVar xd (toByte imm)).advance :=
  checked_of_wellFormed hw

/-- One variable set and pc advanced: a frame, the variable, and every other one. -/
theorem setVar_advance_spec {d : Nat} (hd : d < 32) (v : Byte) (s : State) :
    (s.setVar d v).advance = { s with x := (s.setVar d v).advance.x, pc := s.pc + 1 } ∧
      (s.setVar d v).advance.getVar d = some v ∧ ∀ j, j ≠ d → (s.setVar d v).advance.getVar j = s.getVar j :=
  ⟨rfl, (State.getVar_setVar s d d v).trans (if_pos ⟨rfl, hd⟩),
    fun j hj => (State.getVar_setVar s d j v).trans (if_neg fun h => hj h.1)⟩

/-- Settles O36: each statement is one variable set, or the fault of the unwritten source. -/
theorem movAndMoviSetOneVariable : Obligations.MovAndMoviSetOneVariable := fun _ _ imm s hd hs himm =>
  ⟨exec_of_unwritten_variable (l := 0) (Instr.wellFormed_mov hd hs) (.inl rfl),
    fun v hv => ⟨_, exec_mov_of_written (Instr.wellFormed_mov hd hs) hv, setVar_advance_spec hd v s⟩,
    ⟨_, exec_movi (Instr.wellFormed_movi hd himm), setVar_advance_spec hd (toByte imm) s⟩⟩

/-! ## OP -/

section

variable {m : Cmd} {xd : Nat} {xs : List Nat} {s : State} (hw : (Instr.op m xd xs).WellFormed s.program)
include hw

/-- OP raises UnwrittenVar of the variable its sources cannot be read past (R176, R206). -/
theorem exec_op_of_unwritten {j : Nat} (hv : s.getVars xs = .error j) :
    exec (.op m xd xs) s = .next (s.raise (.unwrittenVar (.x j))) := by
  simp [exec, execOp, checked_of_wellFormed hw, hv]

/-- OP stores the payload of the block's response to the frame of its opcode and its sources (R176). -/
theorem exec_op_of_payload {v p : List Byte} {d : Draws} (hv : s.getVars xs = .ok v)
    (hr : blockResponse (m.opc :: v) s.draws = some (.ok p, d)) :
    exec (.op m xd xs) s = .next (((s.setVars xd p).setDraws d).advance) := by
  simp [exec, execOp, checked_of_wellFormed hw, hv, hr]

/-- OP raises CmdError where the block answers BadTarget (R208). -/
theorem exec_op_of_badTarget {v : List Byte} {d : Draws} (hv : s.getVars xs = .ok v)
    (hr : blockResponse (m.opc :: v) s.draws = some (.badTarget, d)) :
    exec (.op m xd xs) s = .next (s.raise (.cmdError m 0x02#8)) := by
  simp [exec, execOp, checked_of_wellFormed hw, hv, hr, Response.status]

end

/-- Settles O37: the step of the frame from outside and OP take the same response of the block, which is a payload of the
command's length or BadTarget. -/
theorem opRunsTheBlockCommand : Obligations.OpRunsTheBlockCommand := by
  intro m xd xs s hd hlen hsrc
  have hw : (Instr.op m xd xs).WellFormed s.program := Instr.wellFormed_op hd hlen hsrc
  refine ⟨fun pre j post hxs hpre hnone =>
    exec_op_of_unwritten hw ((State.getVars_eq_error s xs j).2 ⟨pre, post, hxs, hpre, hnone⟩), fun v hmap => ?_⟩
  have hv : s.getVars xs = .ok v := (State.getVars_eq_ok s xs v).2 hmap
  obtain ⟨⟨r, d⟩, hshape, hresp, hstep⟩ := step_of_frame (m := m) (ops := v) (rest := [])
    (s := { s with input := m.opc :: v }) ((State.getVars_length hv).trans hlen) (List.append_nil _).symm
  refine ⟨r.frame, d, hstep, ?_⟩
  obtain ⟨p, hp, hplen⟩ | ⟨hbad, -⟩ := hshape
  · obtain rfl : r = .ok p := hp
    have hfit : xd + p.length ≤ 32 := hplen ▸ hd
    exact .inl ⟨p, _, rfl, hplen, exec_op_of_payload hw hv hresp,
      congrArg (fun t : State => (t.setDraws d).advance) (State.setVars_frame ..),
      fun k hk => State.getVar_setVars_add s hfit hk, fun j hj => State.getVar_setVars_of_outside s hfit hj⟩
  · obtain rfl : r = .badTarget := congrArg Prod.fst hbad
    exact .inr ⟨rfl, exec_op_of_badTarget hw hv hresp⟩

end Sys2Proof.Machine
end

section
/-! SUPPORT. Control transfer (48_harness.md R177 to R182): the branches by their condition, where the label's index is
known, JMP and HALT. -/

namespace Sys2Proof.Machine

/-- A label that is defined once is jumped to at its index (R177). -/
theorem branchTo_of_mem {l : Label} {k : Nat} {s : State} (honce : (s.program.labels.map Prod.fst).Nodup)
    (hmem : (l, k) ∈ s.program.labels) : branchTo l s = .next (s.jumpTo k) := by
  simp [branchTo, Program.index?_of_mem honce hmem]

/-- BOK and BNOK with OK unwritten raise UnwrittenVar of OK (R206, R211). -/
theorem exec_of_unwritten_ok {i : Instr} {l : Label} {s : State} (hw : i.WellFormed s.program)
    (hi : i = .bok l ∨ i = .bnok l) (hok : s.ok = none) : exec i s = .next (s.raise (.unwrittenVar .ok)) := by
  obtain rfl | rfl := hi
  · simp [exec, execBok, checked_of_wellFormed hw, hok]
  · simp [exec, execBnok, checked_of_wellFormed hw, hok]

section

variable {l : Label} {k : Nat} {s : State} (hbranch : branchTo l s = .next (s.jumpTo k))
include hbranch

theorem exec_beqz_of_written {xs : Nat} {v : Byte} (hw : (Instr.beqz xs l).WellFormed s.program)
    (hv : s.getVar xs = some v) : exec (.beqz xs l) s = .next (s.jumpTo (if v = 0#8 then k else s.pc + 1)) := by
  simp only [exec, execBeqz, checked_of_wellFormed hw, hv, hbranch]
  split <;> rfl

theorem exec_bnez_of_written {xs : Nat} {v : Byte} (hw : (Instr.bnez xs l).WellFormed s.program)
    (hv : s.getVar xs = some v) : exec (.bnez xs l) s = .next (s.jumpTo (if v = 0#8 then s.pc + 1 else k)) := by
  simp only [exec, execBnez, checked_of_wellFormed hw, hv, hbranch]
  split <;> rfl

theorem exec_bok_of_written {b : Bool} (hw : (Instr.bok l).WellFormed s.program) (hok : s.ok = some b) :
    exec (.bok l) s = .next (s.jumpTo (if b then k else s.pc + 1)) := by
  cases b with
  | true => simp [exec, execBok, checked_of_wellFormed hw, hok, hbranch]
  | false => simp [exec, execBok, checked_of_wellFormed hw, hok, State.advance, State.jumpTo]

theorem exec_bnok_of_written {b : Bool} (hw : (Instr.bnok l).WellFormed s.program) (hok : s.ok = some b) :
    exec (.bnok l) s = .next (s.jumpTo (if b then s.pc + 1 else k)) := by
  cases b with
  | true => simp [exec, execBnok, checked_of_wellFormed hw, hok, State.advance, State.jumpTo]
  | false => simp [exec, execBnok, checked_of_wellFormed hw, hok, hbranch]

end

/-- Settles O39: the fault of the unwritten variable, or the jump by its value. -/
theorem zeroBranchesFollowTheVariable : Obligations.ZeroBranchesFollowTheVariable := by
  intro xs l k s hs honce hmem
  have hbranch := branchTo_of_mem honce hmem
  have hweq : (Instr.beqz xs l).WellFormed s.program := Instr.wellFormed_beqz hs hmem
  have hwne : (Instr.bnez xs l).WellFormed s.program := Instr.wellFormed_bnez hs hmem
  exact ⟨fun hv => ⟨exec_of_unwritten_variable (xd := 0) hweq (.inr (.inl rfl)) hv,
      exec_of_unwritten_variable (xd := 0) hwne (.inr (.inr rfl)) hv⟩,
    fun v hv => ⟨exec_beqz_of_written hbranch hweq hv, exec_bnez_of_written hbranch hwne hv⟩⟩

/-- Settles O40: the fault of the unwritten flag, or the jump by its value. -/
theorem okBranchesFollowTheFlag : Obligations.OkBranchesFollowTheFlag := by
  intro l k s honce hmem
  have hbranch := branchTo_of_mem honce hmem
  have hwok : (Instr.bok l).WellFormed s.program := Instr.wellFormed_jump hmem (.inl rfl)
  have hwnok : (Instr.bnok l).WellFormed s.program := Instr.wellFormed_jump hmem (.inr (.inl rfl))
  exact ⟨fun hok => ⟨exec_of_unwritten_ok hwok (.inl rfl) hok, exec_of_unwritten_ok hwnok (.inr rfl) hok⟩,
    fun b hok => ⟨exec_bok_of_written hbranch hwok hok, exec_bnok_of_written hbranch hwnok hok⟩⟩

theorem exec_jmp {l : Label} {s : State} (hw : (Instr.jmp l).WellFormed s.program) :
    exec (.jmp l) s = branchTo l s :=
  checked_of_wellFormed hw

/-- HALT passes every check in every program, so it always halts (R182). -/
theorem exec_halt (s : State) : exec .halt s = .next s.halt := rfl

/-- Settles O41: JMP is the jump to its label, and HALT sets the mark. -/
theorem jmpAndHalt : Obligations.JmpAndHalt :=
  ⟨fun _ _ _ honce hmem =>
    (exec_jmp (Instr.wellFormed_jump hmem (.inr (.inr rfl)))).trans (branchTo_of_mem honce hmem), exec_halt⟩

end Sys2Proof.Machine
end

section
/-! SUPPORT. The errors of a command frame (60_exceptions.md R201, R202): a first byte that is no opcode, and which commands
answer BadTarget. -/

namespace Sys2Proof

/-- A byte that the table does not list is no frame's opcode (R75). -/
theorem decode_illegalOpcode {opc : Byte} (h : opc ∉ Cmd.all.map Cmd.opc) (rest : List Byte) :
    decode (opc :: rest) = .error (.illegalOpcode opc) := by
  have hnone : Cmd.ofOpc opc = none :=
    Cmd.ofOpc_none.2 fun c hc => h (List.mem_map.2 ⟨c, Cmd.mem_all c, hc⟩)
  simp only [decode, hnone]

end Sys2Proof

namespace Sys2Proof.Machine

/-- A first byte that is no opcode is taken alone and answered with 0x01 (R201). -/
theorem step_of_illegalOpcode {s : State} {opc : Byte} (h : decode s.input = .error (.illegalOpcode opc)) :
    step s = .next ((s.setInput s.input.tail).respond [0x01#8]) := by
  simp only [step, fetch, h]
  rfl

/-- Settles O6: the table's opcodes are the listed ones, so the byte is decoded as illegal and answered alone. -/
theorem illegalOpcodeIsAnswered : Obligations.IllegalOpcodeIsAnswered := by
  intro opc rest s hopc hin
  have hdec : decode s.input = .error (.illegalOpcode opc) := hin ▸ decode_illegalOpcode hopc rest
  rw [step_of_illegalOpcode hdec, hin]
  rfl

/-! ## BadTarget -/

/-- The status byte 0x02 stands alone in the frame of BadTarget only (R200). -/
theorem Response.frame_eq_badTarget_iff {r : Response} : r.frame = [0x02#8] ↔ r = .badTarget := by
  cases r <;> simp [Response.frame]

/-- The command's selector names no alarm: mode[1:0] = 00 for ALM.MAP and ALM.CTL, a selector other than 0x01 and 0x02 for
ALM.DEC (R202). -/
def HasBadSelector (i : Instr) : Prop :=
  match i with
  | .almMap mode _ _ _ _ _ => mode.toNat % 4 = 0
  | .almCtl mode _         => mode.toNat % 4 = 0
  | .almDec sel _ _ _ _    => sel ≠ 0x01#8 ∧ sel ≠ 0x02#8
  | _                      => False

theorem hasBadSelector_iff {i : Instr} :
    HasBadSelector i ↔
      (∃ mode sec min hour dow day, i = .almMap mode sec min hour dow day ∧ mode.toNat % 4 = 0) ∨
      (∃ mode ctrl, i = .almCtl mode ctrl ∧ mode.toNat % 4 = 0) ∨
      (∃ sel r0 r1 r2 r3, i = .almDec sel r0 r1 r2 r3 ∧ sel ≠ 0x01#8 ∧ sel ≠ 0x02#8) := by
  cases i <;> simp [HasBadSelector]

theorem almMapResponse_eq_badTarget_iff (mode sec min hour dow day : Byte) (d : Draws) :
    (almMapResponse mode sec min hour dow day d).1 = .badTarget ↔ mode.toNat % 4 = 0 := by
  rw [← resolveMode_none_iff, almMapResponse]
  match resolveMode mode with
  | none            => simp
  | some (eff, .a1) => simp
  | some (eff, .a2) => simp

theorem almCtlResponse_eq_badTarget_iff (mode ctrl : Byte) (d : Draws) :
    (almCtlResponse mode ctrl d).1 = .badTarget ↔ mode.toNat % 4 = 0 := by
  rw [← resolveMode_none_iff, almCtlResponse]
  cases resolveMode mode <;> simp

theorem almDecResponse_eq_badTarget_iff (sel r0 r1 r2 r3 : Byte) (d : Draws) :
    (almDecResponse sel r0 r1 r2 r3 d).1 = .badTarget ↔ sel ≠ 0x01#8 ∧ sel ≠ 0x02#8 := by
  unfold almDecResponse
  split_ifs with h1 h2
  · simp [h1]
  · simp [h2]
  · simp [h1, h2]

/-- DOW answers OK on DOWDOM and outside it (R101). -/
theorem dowResponse_ne_badTarget (yearHi yearLo month day : Byte) (d : Draws) :
    (dowResponse yearHi yearLo month day d).1 ≠ .badTarget := by
  simp only [dowResponse]
  split <;> simp

/-- The block answers a command with BadTarget exactly for a bad selector (R202). -/
theorem respondTo_badTarget_iff {i : Instr} {d : Draws} {r : Response × Draws} (h : respondTo i d = some r) :
    r.1 = .badTarget ↔ HasBadSelector i := by
  cases i <;> cases h
  case almMap => exact almMapResponse_eq_badTarget_iff ..
  case almCtl => exact almCtlResponse_eq_badTarget_iff ..
  case almDec => exact almDecResponse_eq_badTarget_iff ..
  case dow => exact iff_of_false (dowResponse_ne_badTarget _ _ _ _ _) id
  all_goals exact iff_of_false Response.noConfusion id

/-- Settles O13: a command adds its response's frame, which is 0x02 alone exactly for BadTarget. -/
theorem badTargetExactlyForBadSelectors : Obligations.BadTargetExactlyForBadSelectors := by
  intro i s hi
  obtain ⟨r, hr, hexec⟩ := exec_command hi s
  rw [← hasBadSelector_iff, ← respondTo_badTarget_iff hr, ← Response.frame_eq_badTarget_iff, hexec]
  constructor
  · rintro ⟨d, h⟩
    injection h with h
    have hresp := congrArg State.responses h
    simpa using hresp
  · intro hframe
    rw [hframe]
    exact ⟨r.2, rfl⟩

end Sys2Proof.Machine
end

section
/-! SUPPORT. Harness faults (60_exceptions.md R205 to R211): what an instruction does to the mark, what the block's step
leaves alone, and which fault is recorded where several apply. -/

namespace Sys2Proof.Machine

/-! ## Fault entry -/

/-- An instruction leaves the mark, halts, or enters a fault, which changes nothing else (R182, R210). -/
theorem Effect.mark_cases {i : Instr} {s t : State} (h : Effect i s t) :
    t.mark = s.mark ∨ t.mark = .halted ∨ ∃ r, t = s.raise r := by
  cases h with
  | raise r => exact .inr (.inr ⟨r, rfl⟩)
  | halt => exact .inr (.inl rfl)
  | _ => exact .inl (by simp)

/-- A fault that an instruction records in a running state is its only effect (R210). -/
theorem exec_eq_raise_of_fault {i : Instr} {s t : State} {r : FaultReason} (hrun : s.mark = .running)
    (h : exec i s = .next t) (hfault : t.mark = .fault r) : t = s.raise r := by
  obtain hsame | hhalt | ⟨r', rfl⟩ := (exec_effect h).mark_cases
  · simp [hsame, hrun] at hfault
  · simp [hhalt] at hfault
  · obtain rfl : r' = r := Mark.fault.inj hfault
    rfl

/-- A step is the block's, which changes at most input, responses and draws, or it is the harness's: a running state's
statement executed after the device's turn, or NoHalt (R70, R171). -/
theorem step_block_or_harness {s t : State} (h : step s = .next t) :
    t = { s with input := t.input, responses := t.responses, draws := t.draws } ∨
    (s.mark = .running ∧ ((∃ i, exec i (deviceTurn s) = .next t) ∨ t = (deviceTurn s).raise (.noHalt s.pc))) := by
  obtain ⟨i, rest, hdec, hexec⟩ | ⟨opc, -, rfl⟩ | ⟨-, hrun, -, hstmt⟩ := step_cases h
  · obtain ⟨r, -, hexec'⟩ := exec_command (isStatement_of_decode hdec) (s.setInput rest)
    rw [hexec'] at hexec
    cases hexec
    exact .inl rfl
  · exact .inl rfl
  · exact .inr ⟨hrun, hstmt.imp (fun ⟨i, _, hexec⟩ => ⟨i, hexec⟩) And.right⟩

/-- A fault that a step from a running state records is the only effect after the device's turn (R171, R210). -/
theorem step_eq_raise_of_fault {s t : State} {r : FaultReason} (hrun : s.mark = .running) (h : step s = .next t)
    (hfault : t.mark = .fault r) : t = (deviceTurn s).raise r := by
  obtain hblock | ⟨-, ⟨i, hexec⟩ | rfl⟩ := step_block_or_harness h
  · have hmark := congrArg State.mark hblock
    simp [hfault, hrun] at hmark
  · exact exec_eq_raise_of_fault hrun hexec hfault
  · exact congrArg _ (Mark.fault.inj hfault)

/-- Settles O43: fault entry by the cases of an instruction and of a step; from a faulted state only the block steps. -/
theorem faultsArePreciseAndPermanent : Obligations.FaultsArePreciseAndPermanent := by
  refine ⟨fun _ _ _ _ => exec_eq_raise_of_fault, fun _ _ _ => step_eq_raise_of_fault,
    fun s r hfault => by simp [hfault], fun s t r hfault h => ?_⟩
  obtain hblock | ⟨hrun, -⟩ := step_block_or_harness h
  · exact hblock
  · simp [hfault] at hrun

/-! ## Priorities -/

/-- Past the last statement NoHalt is recorded after the device's turn, and no statement is fetched (R209, R211). -/
theorem step_of_past_end {s : State} (hrun : s.mark = .running) (hwf : s.program.WellFormed)
    (hin : decode s.input = .error .incomplete) (hpc : s.program.stmts.length ≤ s.pc) :
    step s = .next ((deviceTurn s).raise (.noHalt s.pc)) := by
  have hnone : s.program.stmts[s.pc]? = none := List.getElem?_eq_none hpc
  simp [step, fetch, hin, fetchStatement, hrun, hwf, hnone]

/-- Consecutive written variables are read as a whole. -/
theorem State.exists_getVars_range'_eq_ok {s : State} {b n : Nat} (h : ∀ k, k < n → s.getVar (b + k) ≠ none) :
    ∃ vs, s.getVars (List.range' b n) = .ok vs := by
  refine State.exists_getVars_eq_ok fun i hi => ?_
  obtain ⟨hb, hn⟩ := List.mem_range'_1.1 hi
  have hk := h (i - b) (by omega)
  rwa [Nat.add_sub_cancel' hb] at hk

/-- A failed WR sets OK to 0 and leaves the mark (R46, R211). -/
theorem exec_wr_of_fail {a xs n : Nat} {s : State} (hw : (Instr.wr a xs n).WellFormed s.program)
    (ha : admitted a n = true) (hwritten : ∀ k, k < n → s.getVar (xs + k) ≠ none)
    (hfail : s.draws.nextBus.1.fail = true) :
    ∃ t, exec (.wr a xs n) s = .next t ∧ t.mark = s.mark ∧ t.ok = some false := by
  obtain ⟨vs, hvs⟩ := State.exists_getVars_range'_eq_ok hwritten
  exact ⟨_, exec_wr_of_written hw ha hvs, rfl, by simp [hfail]⟩

/-- Settles O45: each clause is the equation of its statement in the case it names. -/
theorem faultPriorities : Obligations.FaultPriorities := by
  refine ⟨fun a x n s hx h1 h8 ha hadm => ?badAddress, fun a x n i s hx hadm ha hlo hhi hbefore hnone => ?wr,
    fun m xd pre post j s hd hlen hsrc hpre hnone => ?op, fun xd xs l k s hd hs hmem => ?oneVariable,
    fun s hrun hwf hin hpc => ⟨_, step_of_past_end hrun hwf hin hpc, rfl⟩,
    fun a x n s hx hadm ha hwritten hfail => ?busFailure⟩
  case badAddress =>
    exact ⟨exec_rd_of_not_admitted (Instr.wellFormed_rd hx h1 h8 ha) hadm,
      exec_wr_of_not_admitted (Instr.wellFormed_wr hx h1 h8 ha) hadm⟩
  case wr =>
    obtain ⟨⟨h1, h8⟩, -⟩ := admitted_iff.1 hadm
    exact exec_wr_of_unwritten (Instr.wellFormed_wr hx h1 h8 ha) hadm
      (State.getVars_range'_eq_error hlo hhi hbefore hnone)
  case op =>
    exact exec_op_of_unwritten (Instr.wellFormed_op hd hlen hsrc)
      ((State.getVars_eq_error s _ j).2 ⟨pre, post, rfl, hpre, hnone⟩)
  case oneVariable =>
    refine ⟨fun hnone i hi => ?_, fun hok i hi => ?_⟩
    · simp only [List.mem_cons, List.not_mem_nil, or_false] at hi
      have hw : i.WellFormed s.program := by
        obtain rfl | rfl | rfl := hi
        · exact Instr.wellFormed_mov hd hs
        · exact Instr.wellFormed_beqz hs hmem
        · exact Instr.wellFormed_bnez hs hmem
      exact exec_of_unwritten_variable hw hi hnone
    · simp only [List.mem_cons, List.not_mem_nil, or_false] at hi
      have hw : i.WellFormed s.program :=
        Instr.wellFormed_jump hmem (hi.imp_right .inl)
      exact exec_of_unwritten_ok hw hi hok
  case busFailure =>
    obtain ⟨⟨h1, h8⟩, -⟩ := admitted_iff.1 hadm
    exact ⟨⟨_, exec_rd_of_fail (Instr.wellFormed_rd hx h1 h8 ha) hadm hfail, rfl, rfl⟩,
      exec_wr_of_fail (Instr.wellFormed_wr hx h1 h8 ha) hadm hwritten hfail⟩

end Sys2Proof.Machine
end

section
/-! SUPPORT. Decoding and encoding as a whole (30_encoding.md R70, R71, R73, R78): every instruction's frame, the frame of
whatever decodes, and a stream of complete frames (10_state.md R20). -/

namespace Sys2Proof

open Laws

/-- Settles O3: each constructor's own round trip. -/
theorem everyCommandRoundTrips : Obligations.EveryCommandRoundTrips
  | .bcdEnc n                     => FrameRoundTrip.bcdEnc n
  | .bcdDec b                     => FrameRoundTrip.bcdDec b
  | .dow yh yl m d                => FrameRoundTrip.dow yh yl m d
  | .tempDec msb lsb              => FrameRoundTrip.tempDec msb lsb
  | .almMap mode se mi h dw d     => FrameRoundTrip.almMap mode se mi h dw d
  | .almDec sel r0 r1 r2 r3       => FrameRoundTrip.almDec sel r0 r1 r2 r3
  | .almCtl mode ctrl             => FrameRoundTrip.almCtl mode ctrl
  | .statAlm st                   => FrameRoundTrip.statAlm st
  | .statOsf st                   => FrameRoundTrip.statOsf st
  | .statClr st m                 => FrameRoundTrip.statClr st m
  | .timeEnc se mi h dw d mo yo   => FrameRoundTrip.timeEnc se mi h dw d mo yo
  | .timeDec t0 t1 t2 t3 t4 t5 t6 => FrameRoundTrip.timeDec t0 t1 t2 t3 t4 t5 t6
  | .rd xd a n                    => FrameRoundTrip.rd xd a n
  | .wr a xs n                    => FrameRoundTrip.wr a xs n
  | .mov xd xs                    => FrameRoundTrip.mov xd xs
  | .movi xd imm                  => FrameRoundTrip.movi xd imm
  | .op m xd xs                   => FrameRoundTrip.op m xd xs
  | .beqz xs l                    => FrameRoundTrip.beqz xs l
  | .bnez xs l                    => FrameRoundTrip.bnez xs l
  | .bok l                        => FrameRoundTrip.bok l
  | .bnok l                       => FrameRoundTrip.bnok l
  | .jmp l                        => FrameRoundTrip.jmp l
  | .halt                         => FrameRoundTrip.halt

/-- The frame of an instruction decodes to it, whatever bytes follow (R71). -/
theorem decode_of_encode {i : Instr} {frame : List Byte} (h : encode i = some frame) (rest : List Byte) :
    decode (frame ++ rest) = .ok (i, rest) := by
  obtain ⟨hstmt, hcmd⟩ := everyCommandRoundTrips i
  cases hi : i.isStatement with
  | true => simp [hstmt hi] at h
  | false =>
    obtain ⟨frame', henc, hdec⟩ := hcmd hi
    obtain rfl : frame' = frame := Option.some.inj (henc.symm.trans h)
    exact hdec rest

/-- Settles O4: what decodes is an opcode and the operands it assembles; two instructions with one frame are both what the
frame decodes to. -/
theorem decodedFramesAreEncodings : Obligations.DecodedFramesAreEncodings := by
  refine ⟨fun bs rest i h => ?_, fun i j frame hi hj => ?_⟩
  · obtain ⟨c, ops, hbs, hasm⟩ := decode_ok h
    exact ⟨c.opc :: ops, (Cmd.encode_assemble hasm).1, hbs⟩
  · have hsame := (decode_of_encode hi []).symm.trans (decode_of_encode hj [])
    exact congrArg Prod.fst (Except.ok.inj hsame)

/-- Settles O1: the table's rows, by evaluation, and its completeness. -/
theorem opcodeMapIsTheTable : Obligations.OpcodeMapIsTheTable := ⟨rfl, Cmd.mem_all⟩

/-- Settles O2: each frame is the encoding of its command, and 0x00 is not in the table. -/
theorem workedFramesDecode : Obligations.WorkedFramesDecode :=
  ⟨decode_of_encode (frame := [0x01#8, 0x3B#8]) rfl [], decode_of_encode (frame := [0x02#8, 0x59#8]) rfl [],
    decode_of_encode (frame := [0x10#8, 0x07#8, 0xE8#8, 0x06#8, 0x0A#8]) rfl [],
    decode_of_encode (frame := [0x20#8, 0xE7#8, 0x40#8]) rfl [],
    decode_of_encode (frame := [0x32#8, 0x01#8, 0x00#8]) rfl [], decode_illegalOpcode (by decide) []⟩

end Sys2Proof

namespace Sys2Proof.Machine

/-- Settles O8: the step of a decoded frame. -/
theorem stepRunsTheDecodedFrame : Obligations.StepRunsTheDecodedFrame := fun _ _ _ => step_of_decode

/-! ## A stream of frames -/

/-- The frame of a command and its operand bytes (R70). -/
abbrev commandFrame (f : Cmd × List Byte) : List Byte := f.1.opc :: f.2

/-- One more frame is one step before the run of the others. -/
theorem core_run_succ {k : Nat} {s t : State} (h : step s = .next t) : core.run (k + 1) s = core.run k t := by
  simp only [Host.Core.run, show core.step s = .next t from h]

section

variable {fs : List (Cmd × List Byte)} (hfs : ∀ f ∈ fs, f.2.length = f.1.operandLen)
include hfs

/-- As many steps as there are complete frames take exactly their bytes and add the block's responses to them. -/
theorem run_of_frames (rest : List Byte) (s : State)
    (hin : s.input = (fs.map commandFrame).flatten ++ rest) :
    core.run fs.length s =
      .next { s with
        input := rest
        responses := s.responses ++ (blockResponses (fs.map commandFrame) s.draws).1
        draws := (blockResponses (fs.map commandFrame) s.draws).2 } := by
  induction fs generalizing s with
  | nil =>
    obtain rfl : s.input = rest := hin
    simp [Host.Core.run]
  | cons f fs ih =>
    rw [List.forall_mem_cons] at hfs
    obtain ⟨r, -, hresp, hstep⟩ := step_of_frame (s := s) hfs.1 (by simpa using hin)
    rw [List.length_cons, core_run_succ hstep, ih hfs.2 _ rfl, List.map_cons, blockResponses_cons hresp]
    simp [State.setInput, State.respond, State.setDraws]

theorem length_blockResponses (d : Draws) :
    (blockResponses (fs.map commandFrame) d).1.length = fs.length := by
  induction fs generalizing d with
  | nil => rfl
  | cons f fs ih =>
    rw [List.forall_mem_cons] at hfs
    obtain ⟨r, hresp, -⟩ := blockResponse_shape hfs.1 d
    rw [List.map_cons, blockResponses_cons hresp, List.length_cons, List.length_cons, ih hfs.2]

/-- The k-th response is the block's to the k-th frame, with the draws the frames before it left (R20). -/
theorem getElem?_blockResponses {k : Nat} {f : Cmd × List Byte} (hk : fs[k]? = some f) (d : Draws) :
    ∃ r, blockResponse (commandFrame f) (blockResponses ((fs.map commandFrame).take k) d).2 = some r ∧
      (blockResponses (fs.map commandFrame) d).1[k]? = some r.1.frame := by
  induction fs generalizing d k with
  | nil => simp at hk
  | cons g fs ih =>
    rw [List.forall_mem_cons] at hfs
    obtain ⟨r, hresp, -⟩ := blockResponse_shape hfs.1 d
    cases k with
    | zero =>
      obtain rfl : g = f := by simpa using hk
      exact ⟨r, by simpa using hresp, by simp [blockResponses_cons hresp]⟩
    | succ k =>
      obtain ⟨r', hr', hframe⟩ := ih hfs.2 (by simpa using hk) r.2
      exact ⟨r', by simpa [blockResponses_cons hresp] using hr', by simpa [blockResponses_cons hresp] using hframe⟩

end

/-- Settles O7: the run by induction over the frames, and the k-th response with its command's shape. -/
theorem frameStreamIsAnsweredInOrder : Obligations.FrameStreamIsAnsweredInOrder := by
  intro fs rest s frames out hfs hin
  refine ⟨run_of_frames hfs rest s hin, length_blockResponses hfs s.draws, fun k f hk => ?_⟩
  obtain ⟨⟨resp, d'⟩, hresp, hframe⟩ := getElem?_blockResponses hfs hk s.draws
  obtain ⟨r, hr, hshape⟩ :=
    blockResponse_shape (hfs f (List.mem_of_getElem? hk)) (blockResponses (frames.take k) s.draws).2
  obtain rfl : r = (resp, d') := Option.some.inj (hr.symm.trans hresp)
  exact ⟨resp, _, d', hresp, rfl, hframe, hshape.frame_cases⟩

end Sys2Proof.Machine
end

section
/-! SUPPORT. What every step keeps (20_memory.md R43, R52, R54, 48_harness.md R171, 60_exceptions.md R210): the invariant,
what each instruction leaves unchanged, written variables, and the registers that WR alone changes. -/

namespace Sys2Proof.Machine

/-! ## The invariant -/

/-- Settles O47: the first image is canonical, pc is 0, and no fault is recorded. -/
theorem resetMeetsTheInvariant : Obligations.ResetMeetsTheInvariant :=
  ⟨Memory.wf_initial, fun _ => Nat.zero_le _, trivial⟩

theorem State.markSound_of_running {s : State} (h : s.mark = .running) : s.MarkSound := by
  simp only [State.MarkSound, h]

theorem State.markSound_of_halted {s : State} (h : s.mark = .halted) : s.MarkSound := by
  simp only [State.MarkSound, h]

/-- A label of a well-formed program stands in front of a statement or at the end (R170). -/
theorem index?_le_of_wellFormed {p : Program} {l : Label} {k : Nat} (hp : p.WellFormed) (h : p.index? l = some k) :
    k ≤ p.stmts.length := by
  obtain ⟨hlabels, -⟩ := Program.wellFormed_iff.1 hp
  simp only [Program.labelsOk, Bool.and_eq_true, List.all_eq_true, decide_eq_true_eq] at hlabels
  exact hlabels.2 _ (Program.index?_mem h)

section

variable {i : Instr} {s t : State}

/-- WR stores at admitted addresses, and nothing else writes the image. -/
theorem Effect.keeps_wf (h : Effect i s t) (hwf : s.ri.wf) : t.ri.wf := by
  cases h with
  | write addr xs n v m b d hi ha hv hm =>
    have hlen : v.length = n := (State.getVars_length hv).trans List.length_range'
    have haddr : ∀ k, k < v.length → admittedAddr (addr + k) = true := hlen ▸ (admitted_iff.1 ha).2
    obtain ⟨-, rfl⟩ | ⟨-, reached, rfl⟩ := hm
    · exact Memory.wf_writeN hwf haddr
    · exact Memory.wf_writeSome hwf haddr
  | _ => simpa using hwf

theorem Effect.program_eq (h : Effect i s t) : t.program = s.program := by
  cases h <;> simp

/-- A statement of a well-formed program leaves pc where it is, or moves it to the next statement or to a label's. -/
theorem Effect.pc_le (h : Effect i s t) (hwf : s.program.WellFormed) (hpc : s.pc < s.program.stmts.length) :
    t.pc ≤ s.program.stmts.length := by
  cases h with
  | jump l k hi hk => exact index?_le_of_wellFormed hwf hk
  | _ => simp; omega

/-- From a running state, a recorded fault is one just raised, with its cause. -/
theorem Effect.markSound (h : Effect i s t) (hrun : s.mark = .running) : t.MarkSound := by
  cases h with
  | raise r hi hc => exact hc
  | halt => exact State.markSound_of_halted rfl
  | _ => exact State.markSound_of_running (by simpa using hrun)

end

/-- A block command changes responses and draws alone (R20, R70). -/
theorem exec_command_frame {i : Instr} {s t : State} (hi : i.isStatement = false) (h : exec i s = .next t) :
    t = { s with responses := t.responses, draws := t.draws } := by
  obtain ⟨r, -, hexec⟩ := exec_command hi s
  rw [hexec] at h
  cases h
  rfl

/-- A step is the block's, which changes at most input, responses and draws; or no frame is pending, and a running state's
well-formed program has its statement at pc executed after the device's turn, or NoHalt raised past its end (R70, R171). -/
theorem step_block_or_statement {s t : State} (h : step s = .next t) :
    t = { s with input := t.input, responses := t.responses, draws := t.draws } ∨
    (decode s.input = .error .incomplete ∧ s.mark = .running ∧ s.program.WellFormed ∧
      ((∃ i, s.program.stmts[s.pc]? = some i ∧ exec i (deviceTurn s) = .next t) ∨
       (s.program.stmts[s.pc]? = none ∧ t = (deviceTurn s).raise (.noHalt s.pc)))) := by
  obtain ⟨i, rest, hdec, hexec⟩ | ⟨opc, -, rfl⟩ | hstmt := step_cases h
  · left
    rw [exec_command_frame (isStatement_of_decode hdec) hexec]
    rfl
  · exact .inl rfl
  · exact .inr hstmt

/-- The block's step changes nothing that the invariant speaks of. -/
theorem State.Inv.of_block {s t : State} (h : s.Inv)
    (ht : t = { s with input := t.input, responses := t.responses, draws := t.draws }) : t.Inv := by
  rw [ht]
  exact ⟨h.ri, h.pc, h.mark⟩

/-- A statement of a well-formed program keeps the invariant from a running state. -/
theorem State.Inv.of_effect {i : Instr} {s t : State} (h : s.Inv) (heff : Effect i s t) (hrun : s.mark = .running)
    (hpc : s.pc < s.program.stmts.length) : t.Inv where
  ri := heff.keeps_wf h.ri
  pc hwf := by
    rw [heff.program_eq] at hwf ⊢
    exact heff.pc_le hwf hpc
  mark := heff.markSound hrun

/-- NoHalt past the last statement keeps the invariant. -/
theorem State.Inv.of_noHalt {s : State} (h : s.Inv) (hpc : s.program.stmts.length ≤ s.pc) : (s.raise (.noHalt s.pc)).Inv :=
  ⟨h.ri, h.pc, rfl, hpc⟩

/-- The device's turn keeps the image canonical and changes nothing else that the invariant speaks of. -/
theorem State.Inv.of_deviceTurn {s : State} (h : s.Inv) : (deviceTurn s).Inv :=
  ⟨Memory.wf_deviceSteps h.ri _, h.pc, h.mark⟩

/-- Settles O48: the block's step leaves the invariant's fields alone; after the device's turn, a statement at pc keeps it by
its effect, and NoHalt is raised past the last statement only. -/
theorem everyStepKeepsTheInvariant : Obligations.EveryStepKeepsTheInvariant := by
  intro s t hinv h
  obtain hblock | ⟨-, hrun, -, ⟨i, hi, hexec⟩ | ⟨hnone, rfl⟩⟩ := step_block_or_statement h
  · exact hinv.of_block hblock
  · exact hinv.of_deviceTurn.of_effect (exec_effect hexec) hrun (List.getElem?_eq_some_iff.1 hi).1
  · exact hinv.of_deviceTurn.of_noHalt (List.getElem?_eq_none_iff.1 hnone)

/-! ## What an instruction leaves unchanged -/

section

variable {i : Instr} {s t : State} (h : Effect i s t)
include h

theorem Effect.getVar_of_not_writesVar {j : Nat} (hj : ¬ WritesVar i j) : t.getVar j = s.getVar j := by
  cases h with
  | read xd addr n d hi ha hv =>
    subst hi
    have hlen : (s.ri.readN addr n).length = n := Memory.readN_length ..
    exact State.getVar_setVars_of_outside s (hlen.symm ▸ hv) (by simp [WritesVar] at hj; omega)
  | set xd v hi hv =>
    have hne : j ≠ xd := by obtain ⟨_, rfl⟩ | ⟨_, rfl⟩ := hi <;> exact hj
    obtain ⟨-, -, hother⟩ := setVar_advance_spec hv v s
    exact hother j hne
  | payload m xd xs p d hi hp hv =>
    subst hi
    exact State.getVar_setVars_of_outside s hv (by simp [WritesVar] at hj; omega)
  | _ => simp

theorem Effect.read_of_not_storesTo {a : Nat} (ha : ¬ StoresTo i a) : t.ri.read a = s.ri.read a := by
  cases h with
  | write addr xs n v m b d hi hadm hv hm =>
    subst hi
    have hlen : v.length = n := (State.getVars_length hv).trans List.length_range'
    have hout : ¬ (addr ≤ a ∧ a < addr + v.length) := hlen.symm ▸ ha
    obtain ⟨-, rfl⟩ | ⟨-, reached, rfl⟩ := hm
    · exact (Memory.read_writeN ..).trans (if_neg hout)
    · exact (Memory.read_writeSome ..).trans (if_neg fun h => hout h.1)
  | _ => simp

/-- OK is left alone, or a bus statement gives it a value (R25). -/
theorem Effect.ok_cases : t.ok = s.ok ∨ (IsBusStatement i ∧ t.ok ≠ none) := by
  cases h with
  | read xd addr n d hi => exact .inr ⟨by simp [hi, IsBusStatement], by simp⟩
  | readFail xd addr n d hi => exact .inr ⟨by simp [hi, IsBusStatement], by simp⟩
  | write addr xs n v m b d hi => exact .inr ⟨by simp [hi, IsBusStatement], by simp⟩
  | _ => exact .inl (by simp)

theorem Effect.input_eq : t.input = s.input := by
  cases h <;> simp

theorem Effect.responses_of_isStatement (hi : i.isStatement = true) : t.responses = s.responses := by
  cases h with
  | respond r hcmd => simp [hi] at hcmd
  | _ => simp

theorem Effect.getVar_ne_none {j : Nat} (hj : s.getVar j ≠ none) : t.getVar j ≠ none := by
  cases h with
  | read => simpa using State.getVar_setVars_ne_none s _ j _ hj
  | set => simpa [State.setVars] using State.getVar_setVars_ne_none s _ j [_] hj
  | payload => simpa using State.getVar_setVars_ne_none s _ j _ hj
  | _ => simpa using hj

end

/-- Settles O49: each field by the instruction's effect. -/
theorem instructionFrames : Obligations.InstructionFrames := by
  intro i s t h
  have heff := exec_effect h
  exact ⟨fun _ => heff.getVar_of_not_writesVar, fun _ => heff.read_of_not_storesTo,
    fun hbus => heff.ok_cases.resolve_right fun hok => hbus hok.1, heff.program_eq, heff.input_eq,
    heff.responses_of_isStatement, fun hcmd => exec_command_frame hcmd h⟩

/-! ## Written variables -/

/-- Settles O50: the block's step and NoHalt write neither, and a statement by its effect. -/
theorem writtenStaysWritten : Obligations.WrittenStaysWritten := by
  intro s t h
  obtain hblock | ⟨-, -, -, ⟨i, hi, hexec⟩ | ⟨-, rfl⟩⟩ := step_block_or_statement h
  · rw [hblock]
    exact ⟨fun _ => id, id, fun hnone hok => absurd hnone hok⟩
  · have heff := exec_effect hexec
    refine ⟨fun _ => heff.getVar_ne_none, fun hok => ?_, fun hnone hok => ⟨i, hi, ?_⟩⟩
    · obtain hsame | ⟨-, hsome⟩ := heff.ok_cases
      · rwa [hsame]
      · exact hsome
    · obtain hsame | ⟨hbus, -⟩ := heff.ok_cases
      · exact absurd (hsame.trans hnone) hok
      · exact hbus
  · exact ⟨fun _ => id, id, fun hnone hok => absurd hnone hok⟩

end Sys2Proof.Machine
end

section
/-! SUPPORT. The device agent (20_memory.md R52, R54): what a device step may do to the register image, that it may do all
of that, and what WR alone changes. -/

namespace Sys2Proof.Machine

/-! ## What the device may do -/

theorem DeviceMay.refl (m : Memory) : DeviceMay m m := ⟨fun _ _ _ => rfl, fun _ _ => id⟩

theorem DeviceMay.trans {m m' m'' : Memory} (h : DeviceMay m m') (h' : DeviceMay m' m'') : DeviceMay m m'' :=
  ⟨fun a hlo hhi => (h'.1 a hlo hhi).trans (h.1 a hlo hhi), fun k hk hset => h'.2 k hk (h.2 k hk hset)⟩

/-- An image that reads the same elsewhere has changed within the same bounds. -/
theorem DeviceMay.of_read_eq {m m' m'' : Memory} (h : DeviceMay m m') (hread : ∀ a, m''.read a = m'.read a) :
    DeviceMay m m'' := by
  simpa only [DeviceMay, hread] using h

/-- The status register after a device step, bit by bit: bits 0, 1 and 7 are raised, bits 2..6 replaced (R52). -/
theorem getLsbD_deviceStatus (raise : Byte) (other : Option Byte) (st : Byte) {k : Nat} (hk : k < 8) :
    (deviceStatus raise other st).getLsbD k =
      if 2 ≤ k ∧ k ≤ 6 then (other.getD st).getLsbD k else st.getLsbD k || raise.getLsbD k := by
  have hraises : ∀ k < 8, deviceRaises.getLsbD k = !decide (2 ≤ k ∧ k ≤ 6) := by decide
  have hfree : ∀ k < 8, deviceFree.getLsbD k = decide (2 ≤ k ∧ k ≤ 6) := by decide
  have hbit : ∀ b : Byte, (b &&& deviceRaises).getLsbD k = (b.getLsbD k && !decide (2 ≤ k ∧ k ≤ 6)) := fun b => by
    rw [BitVec.getLsbD_and, hraises k hk]
  have hkept : ∀ b v : Byte, ((b &&& ~~~deviceFree) ||| (v &&& deviceFree)).getLsbD k =
      if 2 ≤ k ∧ k ≤ 6 then v.getLsbD k else b.getLsbD k := fun b v => by
    simp only [BitVec.getLsbD_or, BitVec.getLsbD_and, BitVec.getLsbD_not, hfree k hk, hk, decide_true, Bool.true_and]
    split_ifs with hmid <;> simp [hmid]
  cases other with
  | none =>
    rw [deviceStatus, BitVec.getLsbD_or, hbit]
    split_ifs with hmid <;> simp [hmid]
  | some v =>
    rw [deviceStatus, hkept, BitVec.getLsbD_or, hbit]
    split_ifs with hmid <;> simp [hmid]

theorem deviceMay_deviceStep (m : Memory) (d : DeviceStep) : DeviceMay m (m.deviceStep d) := by
  refine ⟨fun a hlo hhi => ?_, fun k hk hset => ?_⟩
  · rw [Memory.read_deviceStep, if_neg (by omega), if_neg (by unfold statusAddr; omega), if_neg (by omega)]
  · rw [Memory.read_deviceStep, if_neg (by decide), if_pos rfl, getLsbD_deviceStatus _ _ _ (by omega), if_neg (by omega),
      hset, Bool.true_or]

theorem deviceMay_deviceSteps (m : Memory) (ds : List DeviceStep) : DeviceMay m (m.deviceSteps ds) := by
  induction ds generalizing m with
  | nil => exact DeviceMay.refl m
  | cons d ds ih => exact (deviceMay_deviceStep m d).trans (ih (m.deviceStep d))

/-! ## Every change within the bounds -/

/-- The device step that gives every byte it may change its value in m. -/
def stepTo (m : Memory) : DeviceStep where
  time  := Vector.ofFn fun k => some (m.read k)
  raise := m.read statusAddr
  other := some (m.read statusAddr)
  temp  := Vector.ofFn fun k => some (m.read (tempAddr + k))

/-- The status register takes any value that clears no flag (R52). -/
theorem deviceStatus_eq_self {st st' : Byte}
    (h : ∀ k, k = 0 ∨ k = 1 ∨ k = 7 → st.getLsbD k = true → st'.getLsbD k = true) :
    deviceStatus st' (some st') st = st' := by
  refine BitVec.eq_of_getLsbD_eq fun k hk => ?_
  rw [getLsbD_deviceStatus _ _ _ hk]
  split
  · rfl
  · have hflag := h k (by omega)
    cases hst : st.getLsbD k <;> simp_all

/-- Every change within R52's bounds is one device step. -/
theorem eq_deviceStep_stepTo {m m' : Memory} (hm : m.wf) (hm' : m'.wf) (h : DeviceMay m m') :
    m' = m.deviceStep (stepTo m') := by
  refine Memory.ext_of_wf hm' (Memory.wf_deviceStep hm _) fun a ha => ?_
  rw [Memory.read_deviceStep]
  split_ifs with htime hstatus htemp
  · simp [stepTo, htime]
  · subst hstatus
    exact (deviceStatus_eq_self h.2).symm
  · have hlt : a - 17 < 2 := by omega
    have haddr : tempAddr + (a - 17) = a := Nat.add_sub_cancel' htemp.1
    simp [stepTo, hlt, haddr]
  · rw [admittedAddr_iff] at ha
    unfold statusAddr at hstatus
    exact h.1 a (by omega) (by omega)

/-- Settles O33: the bounds of one step, the step that reaches an allowed image, and the queued list of the device's turn. -/
theorem deviceStepsAreExactlyTheAllowedOnes : Obligations.DeviceStepsAreExactlyTheAllowedOnes := by
  refine ⟨fun m d hm => ⟨Memory.wf_deviceStep hm d, deviceMay_deviceStep m d⟩,
    fun m m' hm hm' h => ⟨_, eq_deviceStep_stepTo hm hm' h⟩, fun s ds q hq => ⟨s.draws.nextDevice.2, ?_⟩⟩
  have hdraw : s.draws.nextDevice.1 = ds := by simp [Draws.nextDevice, hq]
  rw [← hdraw]
  rfl

/-! ## What WR alone changes -/

/-- Settles O51: the block leaves the image alone, and a statement that is no WR leaves it as the device's turn left it. -/
theorem onlyWrTouchesAlarmAndControl : Obligations.OnlyWrTouchesAlarmAndControl := by
  intro s t h hnoWr
  have hturn : DeviceMay s.ri (deviceTurn s).ri := deviceMay_deviceSteps s.ri _
  obtain hblock | ⟨hin, -, -, ⟨i, hi, hexec⟩ | ⟨-, rfl⟩⟩ := step_block_or_statement h
  · rw [hblock]
    exact DeviceMay.refl s.ri
  · have hstores : ∀ a, ¬ StoresTo i a := fun a => by
      cases i with
      | wr addr xs n => exact absurd rfl (hnoWr _ addr xs n hin hi)
      | _ => exact id
    exact hturn.of_read_eq fun a => (exec_effect hexec).read_of_not_storesTo (hstores a)
  · exact hturn

/-! ## A read after a write -/

/-- A WR that enters no fault and does not fail was an admitted access, and has stored its sources (R173). -/
theorem stored_of_exec_wr {a xs n : Nat} {s t : State} (h : exec (.wr a xs n) s = .next t)
    (hnoFault : ∀ r, t ≠ s.raise r) (hok : s.draws.nextBus.1.fail = false) :
    admitted a n = true ∧ ∀ k, k < n → some (t.ri.read (a + k)) = s.getVar (xs + k) := by
  have hw : (Instr.wr a xs n).WellFormed s.program := (of_checked h).1
  obtain ⟨hx, h1, h8, ha⟩ := Instr.bounds_of_wellFormed_wr hw
  cases hadm : admitted a n with
  | false =>
    rw [exec_wr_of_not_admitted hw hadm] at h
    cases h
    exact absurd rfl (hnoFault _)
  | true =>
    refine ⟨rfl, fun k hk => ?_⟩
    cases hv : s.getVars (List.range' xs n) with
    | error i =>
      rw [exec_wr_of_unwritten hw hadm hv] at h
      cases h
      exact absurd rfl (hnoFault _)
    | ok vs =>
      have hwritten : ∀ k, k < n → s.getVar (xs + k) ≠ none := fun k hk hnone => by
        rw [← State.getElem?_of_getVars_range' hv hk, List.getElem?_eq_none_iff, State.getVars_length hv,
          List.length_range'] at hnone
        omega
      obtain ⟨-, -, hstores⟩ := wrStoresOrFailsPerByte a xs n s hx h1 h8 ha
      obtain ⟨t', hexec, -, -, hbytes⟩ := hstores hadm hwritten
      obtain rfl : t' = t := by
        rw [hexec] at h
        exact Host.Outcome.next.inj h
      simpa [hok] using hbytes k hk

/-- Settles O52: the bytes the WR stored lie where the device changes nothing, and the RD reads them in one snapshot. -/
theorem readReturnsTheLatestWrite : Obligations.ReadReturnsTheLatestWrite := by
  intro a n xs xd s t u v ds hlo hhi hwr hmark hwrOk hrun hri hrun' hrdOk hrd
  obtain ⟨hadm, hstored⟩ := stored_of_exec_wr hwr (fun r hr => by simp [hr, hrun] at hmark) hwrOk
  obtain ⟨hx, h1, h8, ha⟩ := Instr.bounds_of_wellFormed_rd (of_checked hrd).1
  obtain ⟨-, -, hsnapshot⟩ := rdReadsOneSnapshot xd a n u hx h1 h8 ha
  obtain ⟨v', hexec, hframe, hread, -⟩ := hsnapshot hadm hrdOk
  obtain rfl : v' = v := by
    rw [hexec] at hrd
    exact Host.Outcome.next.inj hrd
  refine ⟨(congrArg State.mark hframe).trans hrun', fun k hk => ?_⟩
  have hkept : u.ri.read (a + k) = t.ri.read (a + k) :=
    hri ▸ (deviceMay_deviceSteps t.ri ds).1 (a + k) (by omega) (by omega)
  rw [hread k hk, hkept, hstored k hk]

end Sys2Proof.Machine
end

section
/-! SUPPORT. The step of the harness (48_harness.md R171): what it runs, where it ends, and that a running state with a
well-formed program always has one; OP without and with an error status (60_exceptions.md R202, R208). -/

namespace Sys2Proof

theorem Cmd.opc_injective : Function.Injective Cmd.opc := fun c c' h =>
  Option.some.inj (by rw [← Cmd.ofOpc_opc c, h, Cmd.ofOpc_opc])

end Sys2Proof

namespace Sys2Proof.Machine

/-! ## One harness step -/

/-- With no frame pending, a running state's well-formed program has its statement at pc executed after the device's turn. -/
theorem step_of_statement {s : State} {i : Instr} (hrun : s.mark = .running) (hwf : s.program.WellFormed)
    (hin : decode s.input = .error .incomplete) (hi : s.program.stmts[s.pc]? = some i) :
    step s = exec i (deviceTurn s) := by
  simp [step, fetch, hin, fetchStatement, hrun, hwf, hi]

/-- Settles O9: NoHalt past the end, the statement before it, each after the device's turn. -/
theorem stepRunsTheStatementAtPc : Obligations.StepRunsTheStatementAtPc := fun _ hrun hwf hin =>
  ⟨step_of_past_end hrun hwf hin, fun _ => step_of_statement hrun hwf hin⟩

/-- Settles O44: with no frame pending the step is the harness's, which looks at the mark first. -/
theorem endedRunHasNoHarnessStep : Obligations.EndedRunHasNoHarnessStep := fun s hin =>
  ⟨fun hmark => by simp [step, fetch, hin, fetchStatement, hmark],
    fun r hmark => by simp [step, fetch, hin, fetchStatement, hmark]⟩

/-! ## Progress, and which statement records CmdError -/

/-- From s to t, i records no CmdError but one of its own command as an OP (R208). -/
def OwnCmdError (i : Instr) (s t : State) : Prop :=
  ∀ m st, t.mark = .fault (.cmdError m st) → s.mark = .fault (.cmdError m st) ∨ ∃ xd xs, i = .op m xd xs

section

variable {s : State}

theorem OwnCmdError.of_mark_eq {i : Instr} {t : State} (h : t.mark = s.mark) : OwnCmdError i s t :=
  fun _ _ hfault => .inl (h.symm.trans hfault)

theorem OwnCmdError.of_raise (i : Instr) {r : FaultReason} (h : ∀ m st, r ≠ .cmdError m st) :
    OwnCmdError i s (s.raise r) :=
  fun m st hfault => absurd (Mark.fault.inj hfault) (h m st)

theorem OwnCmdError.op (m : Cmd) (xd : Nat) (xs : List Nat) (st : Byte) :
    OwnCmdError (.op m xd xs) s (s.raise (.cmdError m st)) := fun m' st' hfault => by
  cases hfault
  exact .inr ⟨xd, xs, rfl⟩

theorem exec_rd_next {xd a n : Nat} (hw : (Instr.rd xd a n).WellFormed s.program) :
    ∃ t, exec (.rd xd a n) s = .next t ∧ OwnCmdError (.rd xd a n) s t := by
  cases hadm : admitted a n with
  | false => exact ⟨_, exec_rd_of_not_admitted hw hadm, .of_raise _ (by simp)⟩
  | true =>
    cases hfail : s.draws.nextBus.1.fail with
    | true => exact ⟨_, exec_rd_of_fail hw hadm hfail, .of_mark_eq (by simp)⟩
    | false => exact ⟨_, exec_rd_of_not_fail hw hadm hfail, .of_mark_eq (by simp)⟩

theorem exec_wr_next {a xs n : Nat} (hw : (Instr.wr a xs n).WellFormed s.program) :
    ∃ t, exec (.wr a xs n) s = .next t ∧ OwnCmdError (.wr a xs n) s t := by
  cases hadm : admitted a n with
  | false => exact ⟨_, exec_wr_of_not_admitted hw hadm, .of_raise _ (by simp)⟩
  | true =>
    cases hv : s.getVars (List.range' xs n) with
    | error i => exact ⟨_, exec_wr_of_unwritten hw hadm hv, .of_raise _ (by simp)⟩
    | ok vs => exact ⟨_, exec_wr_of_written hw hadm hv, .of_mark_eq (by simp)⟩

theorem exec_op_next {m : Cmd} {xd : Nat} {xs : List Nat} (hw : (Instr.op m xd xs).WellFormed s.program) :
    ∃ t, exec (.op m xd xs) s = .next t ∧ OwnCmdError (.op m xd xs) s t := by
  cases hv : s.getVars xs with
  | error j => exact ⟨_, exec_op_of_unwritten hw hv, .of_raise _ (by simp)⟩
  | ok v =>
    obtain ⟨-, -, -, harity⟩ := Instr.bounds_of_wellFormed_op hw
    obtain ⟨⟨r, d⟩, hresp, hshape⟩ := blockResponse_shape ((State.getVars_length hv).trans harity) s.draws
    obtain ⟨p, rfl, -⟩ | ⟨hbad, -⟩ := hshape
    · exact ⟨_, exec_op_of_payload hw hv hresp, .of_mark_eq (by simp)⟩
    · obtain rfl : r = .badTarget := congrArg Prod.fst hbad
      exact ⟨_, exec_op_of_badTarget hw hv hresp, .op m xd xs _⟩

/-- A branch that passes LBL has its target. -/
theorem branchTo_of_wellFormed {i : Instr} {l : Label} (hw : i.WellFormed s.program) (hl : i.labelUsed = some l) :
    ∃ k, branchTo l s = .next (s.jumpTo k) := by
  obtain ⟨k, hk⟩ := Program.index?_isSome (Instr.wellFormed_iff.1 hw).1 hl
  exact ⟨k, by simp [branchTo, hk]⟩

/-- A statement that passes every check answers a next state, whatever the state holds, and only OP records CmdError
(R205, R208). -/
theorem exec_statement_next {i : Instr} (hi : i.isStatement = true) (hw : i.WellFormed s.program) :
    ∃ t, exec i s = .next t ∧ OwnCmdError i s t := by
  cases i with
  | rd => exact exec_rd_next hw
  | wr => exact exec_wr_next hw
  | mov xd xs =>
    cases hv : s.getVar xs with
    | none => exact ⟨_, exec_of_unwritten_variable (xd := xd) (l := 0) hw (.inl rfl) hv, .of_raise _ (by simp)⟩
    | some v => exact ⟨_, exec_mov_of_written hw hv, .of_mark_eq (by simp)⟩
  | movi => exact ⟨_, exec_movi hw, .of_mark_eq (by simp)⟩
  | op => exact exec_op_next hw
  | beqz xs l =>
    obtain ⟨k, hk⟩ := branchTo_of_wellFormed hw rfl
    cases hv : s.getVar xs with
    | none => exact ⟨_, exec_of_unwritten_variable (xd := 0) hw (.inr (.inl rfl)) hv, .of_raise _ (by simp)⟩
    | some v => exact ⟨_, exec_beqz_of_written hk hw hv, .of_mark_eq (by simp)⟩
  | bnez xs l =>
    obtain ⟨k, hk⟩ := branchTo_of_wellFormed hw rfl
    cases hv : s.getVar xs with
    | none => exact ⟨_, exec_of_unwritten_variable (xd := 0) hw (.inr (.inr rfl)) hv, .of_raise _ (by simp)⟩
    | some v => exact ⟨_, exec_bnez_of_written hk hw hv, .of_mark_eq (by simp)⟩
  | bok l =>
    obtain ⟨k, hk⟩ := branchTo_of_wellFormed hw rfl
    cases hok : s.ok with
    | none => exact ⟨_, exec_of_unwritten_ok hw (.inl rfl) hok, .of_raise _ (by simp)⟩
    | some b => exact ⟨_, exec_bok_of_written hk hw hok, .of_mark_eq (by simp)⟩
  | bnok l =>
    obtain ⟨k, hk⟩ := branchTo_of_wellFormed hw rfl
    cases hok : s.ok with
    | none => exact ⟨_, exec_of_unwritten_ok hw (.inr rfl) hok, .of_raise _ (by simp)⟩
    | some b => exact ⟨_, exec_bnok_of_written hk hw hok, .of_mark_eq (by simp)⟩
  | jmp l =>
    obtain ⟨k, hk⟩ := branchTo_of_wellFormed hw rfl
    exact ⟨_, (exec_jmp hw).trans hk, .of_mark_eq (by simp)⟩
  | halt => exact ⟨_, exec_halt s, fun _ _ hfault => by simp at hfault⟩
  | _ => cases hi

end

/-- Settles O11: a pending frame or an illegal byte is answered; otherwise NoHalt is raised, or the statement at pc passes
every check and so has a next state. -/
theorem wellFormedRunAlwaysSteps : Obligations.WellFormedRunAlwaysSteps := by
  intro s hrun hwf
  cases hin : decode s.input with
  | ok ir =>
    obtain ⟨i, rest⟩ := ir
    obtain ⟨r, -, hexec⟩ := exec_command (isStatement_of_decode hin) (s.setInput rest)
    exact ⟨_, (step_of_decode hin).trans hexec⟩
  | error e =>
    cases e with
    | illegalOpcode opc => exact ⟨_, step_of_illegalOpcode hin⟩
    | incomplete =>
      cases hi : s.program.stmts[s.pc]? with
      | none => exact ⟨_, step_of_past_end hrun hwf hin (List.getElem?_eq_none_iff.1 hi)⟩
      | some i =>
        obtain ⟨-, hstmts, hchecks⟩ := Program.wellFormed_iff.1 hwf
        have hmem : i ∈ s.program.stmts := List.mem_of_getElem? hi
        rw [step_of_statement hrun hwf hin hi]
        obtain ⟨t, hexec, -⟩ := exec_statement_next (s := deviceTurn s) (hstmts i hmem) (hchecks i hmem)
        exact ⟨t, hexec⟩

/-! ## OP and BadTarget -/

/-- The selector of an assembled command is its first operand byte, so a bad selector names an alarm command (R202). -/
theorem head?_of_hasBadSelector {m : Cmd} {v : List Byte} {i : Instr} (h : m.assemble v = some i)
    (hbad : HasBadSelector i) :
    ((m = .almMap ∨ m = .almCtl) ∧ ∃ b, v.head? = some b ∧ b.toNat % 4 = 0) ∨
      (m = .almDec ∧ v.head? ≠ some 0x01#8 ∧ v.head? ≠ some 0x02#8) := by
  have henc := (Cmd.encode_assemble h).1
  cases i with
  | almMap mode =>
    obtain ⟨hopc, rfl⟩ := List.cons.inj (Option.some.inj henc)
    exact .inl ⟨.inl (Cmd.opc_injective hopc.symm), mode, rfl, hbad⟩
  | almCtl mode =>
    obtain ⟨hopc, rfl⟩ := List.cons.inj (Option.some.inj henc)
    exact .inl ⟨.inr (Cmd.opc_injective hopc.symm), mode, rfl, hbad⟩
  | almDec sel =>
    obtain ⟨hopc, rfl⟩ := List.cons.inj (Option.some.inj henc)
    exact .inr ⟨Cmd.opc_injective hopc.symm, by simpa using hbad.1, by simpa using hbad.2⟩
  | _ => exact hbad.elim

/-- Settles O38: with a good selector the block's response is a payload, which OP stores. -/
theorem opCompletesWithoutBadTarget : Obligations.OpCompletesWithoutBadTarget := by
  intro m xd xs v s hd hlen hsrc hmap hmode hsel
  have hw : (Instr.op m xd xs).WellFormed s.program := Instr.wellFormed_op hd hlen hsrc
  have hv : s.getVars xs = .ok v := (State.getVars_eq_ok s xs v).2 hmap
  obtain ⟨i, hi⟩ := Cmd.assemble_isSome ((State.getVars_length hv).trans hlen)
  obtain ⟨⟨r, d⟩, hr, hshape⟩ := respondTo_shape hi s.draws
  have hgood : ¬ HasBadSelector i := fun hbad => by
    obtain ⟨hm, b, hb, hzero⟩ | ⟨hm, h1, h2⟩ := head?_of_hasBadSelector hi hbad
    · exact hmode hm b hb hzero
    · exact (hsel hm).elim h1 h2
  obtain ⟨p, hp, hplen⟩ | ⟨hbad, -⟩ := hshape
  · obtain rfl : r = .ok p := hp
    have hfit : xd + p.length ≤ 32 := hplen ▸ hd
    refine ⟨_, exec_op_of_payload hw hv ((blockResponse_cmd hi s.draws).trans hr),
      congrArg (fun t : State => (t.setDraws d).advance) (State.setVars_frame ..), fun j hlo hhi hnone => ?_⟩
    have hstored : (s.setVars xd p).getVar j = p[j - xd]? := by
      rw [← State.getVar_setVars_add s hfit (k := j - xd) (by omega), Nat.add_sub_cancel' hlo]
    have hout : p.length ≤ j - xd := List.getElem?_eq_none_iff.1 (hstored.symm.trans hnone)
    omega
  · exact absurd ((respondTo_badTarget_iff hr).1 (congrArg Prod.fst hbad)) hgood

/-- A statement that answers a next state has passed every check (R170). -/
theorem wellFormed_of_exec {i : Instr} {s t : State} (hi : i.isStatement = true) (h : exec i s = .next t) :
    i.WellFormed s.program := by
  cases i
  case halt => rfl
  case rd | wr | mov | movi | op | beqz | bnez | bok | bnok | jmp => exact (of_checked h).1
  all_goals cases hi

/-- Settles O42: in a running state a new CmdError is of an OP's own command, and a recorded fault has its cause. -/
theorem cmdErrorIsOnlyBadTarget : Obligations.CmdErrorIsOnlyBadTarget := by
  intro i s t m st hrun h hfault
  have hsound := (exec_effect h).markSound hrun
  simp only [State.MarkSound, hfault] at hsound
  refine ⟨?_, hsound⟩
  cases hi : i.isStatement with
  | false =>
    have hmark : t.mark = s.mark := by rw [exec_command_frame hi h]
    simp [hmark, hrun] at hfault
  | true =>
    obtain ⟨t', hexec, hown⟩ := exec_statement_next hi (wellFormed_of_exec hi h)
    obtain rfl : t' = t := Host.Outcome.next.inj (hexec.symm.trans h)
    exact (hown m st hfault).resolve_left (by simp [hrun])

end Sys2Proof.Machine
end

section
/-! SUPPORT. Values and their BCD bytes (41_bcd.md R90, R92): each is the other's inverse, through BCD.ENC and BCD.DEC. -/

namespace Sys2Proof.Machine

theorem toNat_bcdValue {n : Nat} (h : n ≤ 99) : (bcdValue n).toNat = n / 10 * 16 + n % 10 := by
  rw [bcdValue, BitVec.toNat_ofNat]
  omega

/-- Decoding the BCD byte of 0..99 gives the number (R92). -/
theorem unbcdValue_bcdValue {n : Nat} (h : n ≤ 99) : unbcdValue (bcdValue n).toNat = n := by
  rw [toNat_bcdValue h, unbcdValue]
  omega

/-- The same, as the byte BCD.DEC gives. -/
theorem ofNat_unbcdValue_bcdValue {v : Byte} (h : v.toNat ≤ 99) :
    BitVec.ofNat 8 (unbcdValue (bcdValue v.toNat).toNat) = v := by
  rw [unbcdValue_bcdValue h, BitVec.ofNat_toNat, BitVec.setWidth_eq]

theorem validBcd_iff {b : Byte} : validBcd b = true ↔ b.toNat / 16 ≤ 9 ∧ b.toNat % 16 ≤ 9 := by
  have hb := b.isLt
  simp only [validBcd, Bool.and_eq_true, decide_eq_true_eq, BitVec.extractLsb'_toNat, Nat.shiftRight_eq_div_pow]
  omega

theorem unbcdValue_le_of_validBcd {b : Byte} (h : validBcd b = true) : unbcdValue b.toNat ≤ 99 := by
  rw [validBcd_iff] at h
  rw [unbcdValue]
  omega

/-- Encoding the number of a valid BCD byte gives the byte (R92). -/
theorem bcdValue_unbcdValue {b : Byte} (h : validBcd b = true) : bcdValue (unbcdValue b.toNat) = b := by
  have hle := unbcdValue_le_of_validBcd h
  rw [validBcd_iff] at h
  apply BitVec.eq_of_toNat_eq
  rw [toNat_bcdValue hle, unbcdValue]
  omega

/-- A value up to 99 fits a byte. -/
theorem toNat_ofNat_of_le {n : Nat} (h : n ≤ 99) : (BitVec.ofNat 8 n).toNat = n := by
  rw [BitVec.toNat_ofNat]
  omega

/-- The field byte of a valid BCD byte's number is the byte, and nothing is drawn. -/
theorem fb_unbcdValue {b : Byte} (h : validBcd b = true) (d : Draws) :
    fb (BitVec.ofNat 8 (unbcdValue b.toNat)) d = (b, d) := by
  have hvalue := toNat_ofNat_of_le (unbcdValue_le_of_validBcd h)
  rw [fb_of_le (hvalue.trans_le (unbcdValue_le_of_validBcd h)), hvalue, bcdValue_unbcdValue h]

/-- Settles O16: bcdValue and unbcdValue undo each other, in both orders. -/
theorem bcdRoundTrips : Obligations.BcdRoundTrips := by
  refine ⟨fun n s s' hn => ⟨bcdValue n.toNat, ?_, ?_, ?_, ?_⟩, fun b s s' htens hunits => ?_⟩
  · rw [exec_bcdEnc, fb_of_le hn]
  · rw [toNat_bcdValue hn]
    omega
  · rw [toNat_bcdValue hn]
    omega
  · rw [exec_bcdDec, ofNat_unbcdValue_bcdValue hn]
  · have hvalid : validBcd b = true := validBcd_iff.2 ⟨htens, hunits⟩
    have hle := unbcdValue_le_of_validBcd hvalid
    refine ⟨BitVec.ofNat 8 (unbcdValue b.toNat), (toNat_ofNat_of_le hle).trans_le hle, exec_bcdDec b s, ?_⟩
    rw [exec_bcdEnc, fb_unbcdValue hvalid]

end Sys2Proof.Machine
end

section
/-! SUPPORT. The weekday (42_dow.md R102 to R104): truncating division on DOWDOM, and the congruence's sum from one day of
the calendar to the next. -/

namespace Sys2Proof.Machine

/-! ## Truncating division -/

theorem dow_bounds (Y M D : Int) : 1 ≤ dow Y M D ∧ dow Y M D ≤ 7 := by
  simp only [dow]
  split <;> omega

/-- No dividend is negative on DOWDOM, so truncating and floor division agree (R102). -/
theorem dowTruncating_eq_dow {Y M D : Nat} (h : InDowDom Y M D) : dowTruncating Y M D = dow Y M D := by
  obtain ⟨-, hM, -, hzero⟩ := h
  have ha : Int.tdiv (14 - (M : Int)) 12 = (14 - (M : Int)) / 12 := Int.tdiv_eq_ediv_of_nonneg (by omega)
  have hy : 0 ≤ (Y : Int) - (14 - (M : Int)) / 12 := by omega
  have hm : 0 ≤ 31 * ((M : Int) + 12 * ((14 - (M : Int)) / 12) - 2) := by omega
  simp only [dowTruncating, dow, ha, Int.tdiv_eq_ediv_of_nonneg hy, Int.tdiv_eq_ediv_of_nonneg hm]
  rw [Int.tmod_eq_emod_of_nonneg (by omega)]

/-- Settles O18: no dividend is negative, and the remainder 0 is given as 7. -/
theorem dowIsTheSameUnderBothDivisions : Obligations.DowIsTheSameUnderBothDivisions := fun _ _ _ h =>
  ⟨dowTruncating_eq_dow h, dow_bounds _ _ _⟩

/-! ## The sum of the congruence -/

/-- The leap years among the years 1..y. -/
def leapYears (y : Nat) : Nat := y / 4 - y / 100 + y / 400

/-- The sum of the congruence, of which dow is the remainder by 7 (R100). -/
def dowSum (Y M D : Nat) : Nat :=
  let y := if M ≤ 2 then Y - 1 else Y
  let m := if M ≤ 2 then M + 10 else M - 2
  D + y + leapYears y + 31 * m / 12

theorem dowValue_eq_dowSum (Y M D : Nat) :
    dowValue Y M D = if dowSum Y M D % 7 = 0 then 7 else dowSum Y M D % 7 := by
  have hsum : ∀ y m : Nat, D + y + y / 4 - y / 100 + y / 400 + 31 * m / 12 = D + y + leapYears y + 31 * m / 12 :=
    fun y m => by
      have hle : y / 100 ≤ y / 4 := Nat.div_le_div_left (by decide) (by decide)
      simp only [leapYears]
      omega
  simp only [dowValue, dowSum, hsum]
  rfl

theorem dowSum_day_succ (Y M D : Nat) : dowSum Y M (D + 1) = dowSum Y M D + 1 := by
  simp only [dowSum]
  omega

end Sys2Proof.Machine

namespace Sys2Proof.Calendar

open Machine

/-! ## The calendar -/

theorem leap_iff {y : Nat} : leap y = true ↔ 4 ∣ y ∧ (¬ 100 ∣ y ∨ 400 ∣ y) := by
  simp [leap, Nat.dvd_iff_mod_eq_zero]

/-- A leap year is one more leap year. -/
theorem leapYears_succ (y : Nat) : leapYears (y + 1) = leapYears y + if leap (y + 1) then 1 else 0 := by
  have hle : y / 100 ≤ y / 4 := Nat.div_le_div_left (by decide) (by decide)
  generalize hfour : y / 4 = four at hle
  generalize hhundred : y / 100 = hundred at hle
  simp only [leapYears, Nat.succ_div, leap_iff, hfour, hhundred]
  by_cases h400 : 400 ∣ y + 1
  · have h100 : 100 ∣ y + 1 := Nat.dvd_trans (by decide) h400
    have h4 : 4 ∣ y + 1 := Nat.dvd_trans (by decide) h100
    simp only [h400, h100, h4, if_true, not_true, false_or, and_true]
    omega
  · by_cases h100 : 100 ∣ y + 1
    · have h4 : 4 ∣ y + 1 := Nat.dvd_trans (by decide) h100
      simp only [h400, h100, h4, if_true, if_false, not_true, or_false, and_false]
      omega
    · by_cases h4 : 4 ∣ y + 1
      · simp only [h400, h100, h4, if_true, if_false, not_false_eq_true, true_or, and_true]
        omega
      · simp only [h400, h100, h4, if_false, false_and, add_zero]

/-- From the last day of February to 1 March the year counts anew, and a leap year has the day more that it counts more. -/
theorem dowSum_march {Y : Nat} (hY : 1 ≤ Y) : dowSum Y 3 1 % 7 = (dowSum Y 2 (monthDays Y 2) + 1) % 7 := by
  obtain ⟨y, rfl⟩ := Nat.exists_eq_add_of_le' hY
  cases h : leap (y + 1) <;> simp [dowSum, monthDays, leapYears_succ, h] <;> omega

/-- From the last day of a month to the first of the next, within a year (R104). -/
theorem dowSum_next_month {Y M : Nat} (hY : 1 ≤ Y) (h1 : 1 ≤ M) (h12 : M < 12) :
    dowSum Y (M + 1) 1 % 7 = (dowSum Y M (monthDays Y M) + 1) % 7 := by
  by_cases h2 : M = 2
  · exact h2 ▸ dowSum_march hY
  · simp only [dowSum, monthDays, if_neg h2]
    interval_cases M <;> simp at h2 ⊢ <;> omega

/-- From 31 December to 1 January: both count from March of the earlier year. -/
theorem dowSum_next_year (Y : Nat) : dowSum (Y + 1) 1 1 % 7 = (dowSum Y 12 31 + 1) % 7 := by
  simp [dowSum]
  omega

/-- The three ways to the next day of a date: within the month, to the next month, to the next year. -/
theorem Date.next_cases {t : Date} (h : t.valid) :
    (t.d < monthDays t.y t.m ∧ t.next = ⟨t.y, t.m, t.d + 1⟩) ∨
    (t.m < 12 ∧ t.d = monthDays t.y t.m ∧ t.next = ⟨t.y, t.m + 1, 1⟩) ∨
    (t.m = 12 ∧ t.d = 31 ∧ t.next = ⟨t.y + 1, 1, 1⟩) := by
  obtain ⟨-, -, hm, -, hd⟩ := h
  unfold Date.next
  split_ifs with hday hmonth
  · exact .inl ⟨hday, rfl⟩
  · exact .inr (.inl ⟨hmonth, by omega, rfl⟩)
  · have hdec : t.m = 12 := by omega
    have hlast : monthDays t.y t.m = 31 := by rw [hdec]; rfl
    exact .inr (.inr ⟨hdec, by omega, rfl⟩)

theorem one_le_monthDays (y m : Nat) : 1 ≤ monthDays y m := by
  unfold monthDays
  split_ifs <;> decide

/-- The day after a date of the calendar is one. -/
theorem Date.valid_next {t : Date} (h : t.valid) : t.next.valid := by
  have hcases := Date.next_cases h
  obtain ⟨hy, hm1, hm, hd1, hd⟩ := h
  obtain ⟨hday, heq⟩ | ⟨hmonth, -, heq⟩ | ⟨-, -, heq⟩ := hcases
  · rw [heq]
    exact ⟨hy, hm1, hm, by simp, hday⟩
  · rw [heq]
    exact ⟨hy, by simp, hmonth, le_rfl, one_le_monthDays t.y (t.m + 1)⟩
  · rw [heq]
    exact ⟨by simp, le_rfl, by simp, le_rfl, one_le_monthDays (t.y + 1) 1⟩

/-- The sum of the congruence goes up by one, mod 7, from a date to the next day. -/
theorem dowSum_next {t : Date} (h : t.valid) :
    dowSum t.next.y t.next.m t.next.d % 7 = (dowSum t.y t.m t.d + 1) % 7 := by
  have hcases := Date.next_cases h
  obtain ⟨hy, hm, -⟩ := h
  obtain ⟨-, heq⟩ | ⟨hmonth, hlast, heq⟩ | ⟨hdec, hlast, heq⟩ := hcases
  · rw [heq, dowSum_day_succ]
  · rw [heq, hlast, dowSum_next_month hy hm hmonth]
  · rw [heq, hdec, hlast, dowSum_next_year]

/-- By induction over the days, from Monday 0001-01-01. -/
theorem dayAfter_weekday (k : Nat) :
    (dayAfter k).valid ∧ dowSum (dayAfter k).y (dayAfter k).m (dayAfter k).d % 7 = (k + 1) % 7 := by
  induction k with
  | zero => exact ⟨by simp [dayAfter, Date.valid, monthDays], rfl⟩
  | succ k ih =>
    obtain ⟨hvalid, hsum⟩ := ih
    refine ⟨Date.valid_next hvalid, (dowSum_next hvalid).trans ?_⟩
    omega

end Sys2Proof.Calendar

namespace Sys2Proof.Machine

/-- Settles O19: on a date of the calendar dow is the sum's remainder, with 0 as 7, and the sum counts the days. -/
theorem dowIsTheGregorianWeekday : Obligations.DowIsTheGregorianWeekday := by
  intro k
  obtain ⟨hvalid, hsum⟩ := Calendar.dayAfter_weekday k
  refine ⟨hvalid, ?_⟩
  obtain ⟨hy, -, hm, -, -⟩ := hvalid
  rw [dow_eq_dowValue (by omega) (by omega), dowValue_eq_dowSum, hsum]
  norm_cast
  split <;> omega

end Sys2Proof.Machine
end

section
/-! SUPPORT. The draws of a command with several fields (44_alarm.md R122): a run of field bytes, each with the draws the one
before it left. -/

namespace Sys2Proof.Machine

/-- The field bytes fb of the values in order, and the draws the last one leaves. -/
def fieldRun : List Byte → Draws → List Byte × Draws
  | [], d      => ([], d)
  | v :: vs, d => ((fb v d).1 :: (fieldRun vs (fb v d).2).1, (fieldRun vs (fb v d).2).2)

/-- With a queued byte for each field above 99, the run takes exactly those bytes, in order. -/
theorem fieldRun_of_outOfRange_le {vs : List Byte} {d : Draws} (h : outOfRange vs ≤ d.bcdEncOor.length) :
    fieldParts vs d.bcdEncOor = (fieldRun vs d).1 ∧ d.afterOor (outOfRange vs) = (fieldRun vs d).2 := by
  induction vs generalizing d with
  | nil => simp [fieldRun]
  | cons v vs ih =>
    obtain ⟨hparts, hrest, hafter⟩ := fb_step h
    obtain ⟨hparts', hafter'⟩ := ih hrest
    rw [fieldRun, hparts, hparts', hafter, hafter']
    exact ⟨rfl, rfl⟩

/-- Settles O22: each command's fields are a run of field bytes, which takes the queued draws in payload order. -/
theorem outOfRangeFieldTakesTheDraw : Obligations.OutOfRangeFieldTakesTheDraw := by
  intro mode sec min hour dow day month yoff s M bs dow' dv
  refine ⟨fun henough => ?timeEnc, fun hmode henough => ?alarm1, fun hmode henough => ?alarm2⟩
  case timeEnc =>
    obtain ⟨hparts, hafter⟩ := fieldRun_of_outOfRange_le henough
    refine ⟨_, _, _, _, _, _, hparts, ?_⟩
    rw [exec_timeEnc, hafter]
    rfl
  case alarm1 =>
    obtain ⟨hparts, hafter⟩ := fieldRun_of_outOfRange_le henough
    refine ⟨_, _, _, _, hparts, ?_⟩
    simp only [exec_almMap_alarm1 hmode, fieldbyte_fst, daybyte_fst, hafter]
    rfl
  case alarm2 =>
    obtain ⟨hparts, hafter⟩ := fieldRun_of_outOfRange_le henough
    refine ⟨_, _, _, hparts, ?_⟩
    simp only [exec_almMap_alarm2 hmode, fieldbyte_fst, daybyte_fst, hafter]
    rfl

end Sys2Proof.Machine
end

section
/-! SUPPORT. ALM.DEC (44_alarm.md R127): the mode it rebuilds, the values below the mask and DY bits, and the round trip of
an alarm's block through ALM.MAP. -/

namespace Sys2Proof.Machine

/-! ## ALM.DEC -/

theorem alarmValue_eq (b : Byte) : alarmValue b = b &&& 0x7F#8 := rfl

/-- The value part of an alarm byte, without its mask bit, by value. -/
theorem unbcd_alarmValue (b : Byte) : unbcd (alarmValue b) = unbcdValue (b.toNat % 128) := by
  rw [unbcd_eq_unbcdValue, alarmValue_eq, toNat_and_0x7F]

/-- The value part of an alarm day byte, without its mask and DY bits, by value. -/
theorem unbcd_alarmDayValue (b : Byte) : unbcd (alarmDayValue b) = unbcdValue (b.toNat % 64) := by
  have hmask : alarmDayValue b = b &&& 0x3F#8 := BitVec.and_assoc b 0x7F#8 0xBF#8
  have hvalue : (b &&& 0x3F#8).toNat = b.toNat % 64 := Nat.and_two_pow_sub_one_eq_mod b.toNat 6
  rw [unbcd_eq_unbcdValue, hmask, hvalue]

/-- The rebuilt mode bit by bit, with bit 2 clear and the selector of the target below it (R127). -/
theorem modeOf_bits (M1 M2 M3 M4 DY : Bool) {T : Byte} (hT : T = 0x01#8 ∨ T = 0x02#8) :
    (modeOf M1 M2 M3 M4 DY T).getLsbD 7 = M1 ∧ (modeOf M1 M2 M3 M4 DY T).getLsbD 6 = M2 ∧
    (modeOf M1 M2 M3 M4 DY T).getLsbD 5 = M3 ∧ (modeOf M1 M2 M3 M4 DY T).getLsbD 4 = M4 ∧
    (modeOf M1 M2 M3 M4 DY T).getLsbD 3 = DY ∧ (modeOf M1 M2 M3 M4 DY T).toNat % 8 = T.toNat := by
  obtain rfl | rfl := hT
  · revert M1 M2 M3 M4 DY
    decide
  · revert M1 M2 M3 M4 DY
    decide

/-- ALM.DEC draws nothing, so of the state only the responses change. -/
theorem exec_almDec (sel r0 r1 r2 r3 : Byte) (s : State) :
    exec (.almDec sel r0 r1 r2 r3) s =
      .next { s with responses := s.responses ++ [(almDecResponse sel r0 r1 r2 r3 s.draws).1.frame] } := by
  simp only [exec, execAlmDec]
  rw [almDecResponse_eq sel r0 r1 r2 r3 s.draws s.draws]
  rfl

/-- ALM.DEC of an Alarm 1 block (R127). -/
theorem exec_almDec_alarm1 (r0 r1 r2 r3 : Byte) (s : State) :
    exec (.almDec 0x01#8 r0 r1 r2 r3) s =
      .next { s with
        responses := s.responses ++
          [[0x00#8, modeOf (r0.getLsbD 7) (r1.getLsbD 7) (r2.getLsbD 7) (r3.getLsbD 7) (r3.getLsbD 6) 0x01#8,
            BitVec.ofNat 8 (unbcdValue (r0.toNat % 128)), BitVec.ofNat 8 (unbcdValue (r1.toNat % 128)),
            BitVec.ofNat 8 (hourValue r2.toNat), BitVec.ofNat 8 (unbcdValue (r3.toNat % 64))]] } := by
  rw [exec_almDec, ← unbcd_alarmValue, ← unbcd_alarmValue, ← unbcd_alarmDayValue, ← hourdec_eq_hourValue]
  rfl

/-- ALM.DEC of an Alarm 2 block, which has no seconds and no M1 (R127). -/
theorem exec_almDec_alarm2 (r0 r1 r2 r3 : Byte) (s : State) :
    exec (.almDec 0x02#8 r0 r1 r2 r3) s =
      .next { s with
        responses := s.responses ++
          [[0x00#8, modeOf false (r0.getLsbD 7) (r1.getLsbD 7) (r2.getLsbD 7) (r2.getLsbD 6) 0x02#8,
            0x00#8, BitVec.ofNat 8 (unbcdValue (r0.toNat % 128)), BitVec.ofNat 8 (hourValue r1.toNat),
            BitVec.ofNat 8 (unbcdValue (r2.toNat % 64))]] } := by
  rw [exec_almDec, ← unbcd_alarmValue, ← unbcd_alarmDayValue, ← hourdec_eq_hourValue]
  rfl

/-- Settles O24: each selector's equation, with the rebuilt mode bit by bit. -/
theorem almDecReadsTheRegisterBlock : Obligations.AlmDecReadsTheRegisterBlock := by
  intro sel r0 r1 r2 r3 s
  refine ⟨rfl, ?alarm1, ?alarm2, fun h1 h2 => ?badTarget⟩
  case alarm1 =>
    rintro rfl
    exact ⟨_, modeOf_bits _ _ _ _ _ (.inl rfl), exec_almDec_alarm1 r0 r1 r2 r3 s⟩
  case alarm2 =>
    rintro rfl
    exact ⟨_, modeOf_bits _ _ _ _ _ (.inr rfl), exec_almDec_alarm2 r0 r1 r2 r3 s⟩
  case badTarget =>
    rw [exec_almDec, (almDecResponse_eq_badTarget_iff sel r0 r1 r2 r3 s.draws).2 ⟨h1, h2⟩]
    rfl

/-! ## What ALM.MAP wrote, read back -/

/-- A mask bit on a byte below 0x80 is read as bit 7, and the byte below it. -/
theorem or_maskBit {b : Byte} (h : b.toNat < 128) (M : Bool) :
    (b ||| maskBit M).getLsbD 7 = M ∧ (b ||| maskBit M).toNat % 128 = b.toNat := by
  revert b M
  decide

/-- An hour byte below 0x40 is in 24-hour form, whatever its mask bit (R151). -/
theorem hourValue_or_maskBit {b : Byte} (h : b.toNat < 64) (M : Bool) :
    hourValue (b ||| maskBit M).toNat = unbcdValue b.toNat := by
  revert b M
  decide

/-- A mask bit and a DY bit on a byte below 0x40 are read as bits 7 and 6, and the byte below them. -/
theorem or_maskBit_or_dyBit {b : Byte} (h : b.toNat < 64) (M DY : Bool) :
    (b ||| maskBit M ||| dyBit DY).getLsbD 7 = M ∧ (b ||| maskBit M ||| dyBit DY).getLsbD 6 = DY ∧
      (b ||| maskBit M ||| dyBit DY).toNat % 64 = b.toNat := by
  revert b M DY
  decide

/-- The mode rebuilt from an Alarm 1 mode's own bits has lost bit 2 alone. -/
theorem modeOf_alarm1 {mode : Byte} (h : mode.toNat % 4 = 1) :
    modeOf (mode.getLsbD 7) (mode.getLsbD 6) (mode.getLsbD 5) (mode.getLsbD 4) (mode.getLsbD 3) 0x01#8 =
      mode &&& 0xFB#8 := by
  revert mode
  decide

/-- The mode rebuilt from an Alarm 2 mode's own bits has lost bit 2 and M1. -/
theorem modeOf_alarm2 {mode : Byte} (h : 2 ≤ mode.toNat % 4) :
    modeOf false (mode.getLsbD 6) (mode.getLsbD 5) (mode.getLsbD 4) (mode.getLsbD 3) 0x02#8 =
      (if mode.toNat % 4 = 3 then mode &&& 0xFE#8 else mode) &&& 0x7B#8 := by
  revert mode
  decide

/-- A field byte up to 79 gives back its mask bit and its value. -/
theorem readBack_fieldByte {v : Byte} (h : v.toNat ≤ 79) (M : Bool) :
    (bcdValue v.toNat ||| maskBit M).getLsbD 7 = M ∧
      BitVec.ofNat 8 (unbcdValue ((bcdValue v.toNat ||| maskBit M).toNat % 128)) = v := by
  have h99 : v.toNat ≤ 99 := by omega
  have hbyte : (bcdValue v.toNat).toNat < 128 := by rw [toNat_bcdValue h99]; omega
  obtain ⟨hmask, hdigits⟩ := or_maskBit hbyte M
  exact ⟨hmask, by rw [hdigits, ofNat_unbcdValue_bcdValue h99]⟩

/-- An hour byte up to 39 gives back its mask bit and its value. -/
theorem readBack_hourByte {v : Byte} (h : v.toNat ≤ 39) (M : Bool) :
    (bcdValue v.toNat ||| maskBit M).getLsbD 7 = M ∧
      BitVec.ofNat 8 (hourValue (bcdValue v.toNat ||| maskBit M).toNat) = v := by
  have h99 : v.toNat ≤ 99 := by omega
  have hbyte : (bcdValue v.toNat).toNat < 64 := by rw [toNat_bcdValue h99]; omega
  refine ⟨(or_maskBit (by omega) M).1, ?_⟩
  rw [hourValue_or_maskBit hbyte, ofNat_unbcdValue_bcdValue h99]

/-- A day byte up to 39 gives back its mask bit, its DY bit and its value. -/
theorem readBack_dayByte {v : Byte} (h : v.toNat ≤ 39) (M DY : Bool) :
    (bcdValue v.toNat ||| maskBit M ||| dyBit DY).getLsbD 7 = M ∧
      (bcdValue v.toNat ||| maskBit M ||| dyBit DY).getLsbD 6 = DY ∧
      BitVec.ofNat 8 (unbcdValue ((bcdValue v.toNat ||| maskBit M ||| dyBit DY).toNat % 64)) = v := by
  have h99 : v.toNat ≤ 99 := by omega
  have hbyte : (bcdValue v.toNat).toNat < 64 := by rw [toNat_bcdValue h99]; omega
  obtain ⟨hmask, hdy, hdigits⟩ := or_maskBit_or_dyBit hbyte M DY
  exact ⟨hmask, hdy, by rw [hdigits, ofNat_unbcdValue_bcdValue h99]⟩

/-- ALM.MAP of Alarm 1 fields in range draws nothing (R122, R125). -/
theorem exec_almMap_alarm1_of_le {mode sec min hour dow day : Byte} (h : mode.toNat % 4 = 1) (hsec : sec.toNat ≤ 99)
    (hmin : min.toNat ≤ 99) (hhour : hour.toNat ≤ 99) (hday : (if mode.getLsbD 3 then dow else day).toNat ≤ 99)
    (s : State) :
    exec (.almMap mode sec min hour dow day) s =
      .next { s with
        responses := s.responses ++
          [[0x00#8, mode, 0x01#8, 0x07#8, 0x04#8, bcdValue sec.toNat ||| maskBit (mode.getLsbD 7),
            bcdValue min.toNat ||| maskBit (mode.getLsbD 6), bcdValue hour.toNat ||| maskBit (mode.getLsbD 5),
            bcdValue (if mode.getLsbD 3 then dow else day).toNat ||| maskBit (mode.getLsbD 4) |||
              dyBit (mode.getLsbD 3)]] } := by
  simp only [exec_almMap_alarm1 h, fieldbyte_of_le hsec, fieldbyte_of_le hmin, fieldbyte_of_le hhour, daybyte_of_le hday]
  rfl

/-- ALM.MAP of Alarm 2 fields in range draws nothing (R122, R125). -/
theorem exec_almMap_alarm2_of_le {mode min hour dow day : Byte} (h : 2 ≤ mode.toNat % 4) (sec : Byte)
    (hmin : min.toNat ≤ 99) (hhour : hour.toNat ≤ 99) (hday : (if mode.getLsbD 3 then dow else day).toNat ≤ 99)
    (s : State) :
    exec (.almMap mode sec min hour dow day) s =
      .next { s with
        responses := s.responses ++
          [[0x00#8, if mode.toNat % 4 = 3 then mode &&& 0xFE#8 else mode, 0x02#8, 0x0B#8, 0x03#8,
            bcdValue min.toNat ||| maskBit (mode.getLsbD 6), bcdValue hour.toNat ||| maskBit (mode.getLsbD 5),
            bcdValue (if mode.getLsbD 3 then dow else day).toNat ||| maskBit (mode.getLsbD 4) |||
              dyBit (mode.getLsbD 3), 0x00#8]] } := by
  simp only [exec_almMap_alarm2 h, fieldbyte_of_le hmin, fieldbyte_of_le hhour, daybyte_of_le hday]
  rfl

/-- Settles O25: with every field in range ALM.MAP draws nothing, and ALM.DEC takes each byte apart into the bits and the
digits ALM.MAP put together. -/
theorem alarmBlockRoundTrips : Obligations.AlarmBlockRoundTrips := by
  intro mode sec min hour dow day s s' dv hmode hsec hmin hhour hday
  have hsec99 : sec.toNat ≤ 99 := by omega
  have hmin99 : min.toNat ≤ 99 := by omega
  have hhour99 : hour.toNat ≤ 99 := by omega
  have hday99 : dv.toNat ≤ 99 := by omega
  obtain ⟨hM1, hsecBack⟩ := readBack_fieldByte (v := sec) (by omega) (mode.getLsbD 7)
  obtain ⟨hM2, hminBack⟩ := readBack_fieldByte (v := min) (by omega) (mode.getLsbD 6)
  obtain ⟨hM3, hhourBack⟩ := readBack_hourByte (v := hour) (by omega) (mode.getLsbD 5)
  obtain ⟨hM4, hDY, hdayBack⟩ := readBack_dayByte hday (mode.getLsbD 4) (mode.getLsbD 3)
  by_cases h1 : mode.toNat % 4 = 1
  · refine ⟨_, 0x01#8, _, _, _, _, _, _, exec_almMap_alarm1_of_le h1 hsec99 hmin99 hhour99 hday99 s, ?_⟩
    rw [exec_almDec_alarm1, hM1, hM2, hM3, hM4, hDY, hsecBack, hminBack, hhourBack, hdayBack, modeOf_alarm1 h1, if_pos h1]
  · have h2 : 2 ≤ mode.toNat % 4 := by omega
    refine ⟨_, 0x02#8, _, _, _, _, _, _, exec_almMap_alarm2_of_le h2 sec hmin99 hhour99 hday99 s, ?_⟩
    rw [exec_almDec_alarm2, hM2, hM3, hM4, hDY, hminBack, hhourBack, hdayBack, modeOf_alarm2 h2, if_neg h1]

end Sys2Proof.Machine
end

section
/-! SUPPORT. The time block's two round trips (45_time_block.md R153): bytes to fields and back, and fields to bytes and
back. -/

namespace Sys2Proof.Machine

/-- An hour byte below 0x40 is in 24-hour form (R151). -/
theorem hourValue_of_lt {n : Nat} (h : n < 64) : hourValue n = unbcdValue n := by
  rw [hourValue, if_neg (by omega), Nat.mod_eq_of_lt h]

/-- Without the century bit the year offset is the year byte's number (R152). -/
theorem yearOffset_of_noCentury {t5 t6 : Byte} (h : t5.toNat < 128) : yearOffset t5 t6 = unbcdValue t6.toNat := by
  rw [yearOffset_eq, if_neg (by omega), Nat.zero_add]

/-- Bit 7 of a byte is clear exactly below 0x80. -/
theorem toNat_lt_of_getLsbD_seven {b : Byte} (h : b.getLsbD 7 = false) : b.toNat < 128 := by
  have hb := b.isLt
  have hbit : ¬ b.toNat / 128 = 1 := fun hset => Bool.false_ne_true (h.symm.trans ((bit_seven_iff b).2 hset))
  omega

/-- A byte other than 0x00 does not stand for 0. -/
theorem unbcdValue_ne_zero {b : Byte} (h : b ≠ 0x00#8) : BitVec.ofNat 8 (unbcdValue b.toNat) ≠ 0x00#8 := by
  intro hzero
  have hle : unbcdValue b.toNat ≤ 165 := unbcd_eq_unbcdValue b ▸ unbcd_le b
  have hvalue : unbcdValue b.toNat = 0 := by
    rw [← Nat.mod_eq_of_lt (hle.trans_lt (show 165 < 2 ^ 8 by decide)), ← BitVec.toNat_ofNat, hzero]
    rfl
  unfold unbcdValue at hvalue
  exact h (BitVec.eq_of_toNat_eq (show b.toNat = 0 by omega))

/-- Settles O29: each field's BCD byte is the byte it was read from, as the hour, the day of week and the month are read
whole. -/
theorem timeBlockRoundTrips : Obligations.TimeBlockRoundTrips := by
  intro t0 t1 t2 t3 t4 t5 t6 s s' hvalid hhour hdow hmonth
  simp only [List.forall_mem_cons, List.not_mem_nil, false_imp_iff, implies_true, and_true] at hvalid
  obtain ⟨hv0, hv1, hv2, hv3, hv4, hv5, hv6⟩ := hvalid
  have hlow : t5.toNat < 128 := toNat_lt_of_getLsbD_seven hmonth
  refine ⟨_, _, _, _, _, _, _, _, exec_timeDec t0 t1 t2 t3 t4 t5 t6 s, ?_⟩
  have hyear : unbcdValue t6.toNat ≤ 99 := unbcdValue_le_of_validBcd hv6
  rw [hourValue_of_lt hhour, Nat.mod_eq_of_lt hlow, yearOffset_of_noCentury hlow]
  simp only [exec_timeEnc, if_neg (unbcdValue_ne_zero hdow), fb_unbcdValue hv0, fb_unbcdValue hv1, fb_unbcdValue hv2,
    fb_unbcdValue hv3, fb_unbcdValue hv4, fb_unbcdValue hv5, toNat_ofNat_of_le hyear,
    Nat.mod_eq_of_lt (Nat.lt_succ_of_le hyear), bcdValue_unbcdValue hv6]

/-- A year offset up to 199 without its century (R153). -/
theorem ofNat_mod_hundred {yoff : Byte} (h : yoff.toNat ≤ 199) :
    BitVec.ofNat 8 (yoff.toNat % 100) = if yoff.toNat < 100 then yoff else yoff - 100#8 := by
  apply BitVec.eq_of_toNat_eq
  split_ifs with hyear
  · rw [toNat_ofNat_of_le (by omega), Nat.mod_eq_of_lt hyear]
  · rw [toNat_ofNat_of_le (by omega), BitVec.toNat_sub, BitVec.toNat_ofNat]
    omega

/-- Settles O30: each byte is the BCD form of its field, with the hour below 0x40 and the month below 0x80. -/
theorem timeFieldsRoundTrip : Obligations.TimeFieldsRoundTrip := by
  intro sec min hour dow day month yoff s s' hsec hmin hhour hdow hday hmonth hyear
  have hhour99 : hour.toNat ≤ 99 := by omega
  have hmonth99 : month.toNat ≤ 99 := by omega
  have hyear99 : yoff.toNat % 100 ≤ 99 := by omega
  have hdow99 := toNat_dowField_le hdow
  have hhourByte : (bcdValue hour.toNat).toNat < 64 := by rw [toNat_bcdValue hhour99]; omega
  have hmonthByte : (bcdValue month.toNat).toNat < 128 := by rw [toNat_bcdValue hmonth99]; omega
  refine ⟨bcdValue sec.toNat, bcdValue min.toNat, bcdValue hour.toNat, bcdValue (if dow = 0#8 then 1#8 else dow).toNat,
    bcdValue day.toNat, bcdValue month.toNat, bcdValue (yoff.toNat % 100), ?encoded, ?decoded⟩
  case encoded =>
    simp only [exec_timeEnc, fb_of_le hsec, fb_of_le hmin, fb_of_le hhour99, fb_of_le hdow99, fb_of_le hday,
      fb_of_le hmonth99]
  case decoded =>
    have hcentury : yoff.toNat % 100 / 256 = 0 := by omega
    rw [exec_timeDec, hourValue_of_lt hhourByte, Nat.mod_eq_of_lt hmonthByte, yearOffset_of_noCentury hmonthByte,
      unbcdValue_bcdValue hyear99, hcentury, ofNat_mod_hundred hyear, ofNat_unbcdValue_bcdValue hsec,
      ofNat_unbcdValue_bcdValue hmin, ofNat_unbcdValue_bcdValue hhour99, ofNat_unbcdValue_bcdValue hdow99,
      ofNat_unbcdValue_bcdValue hday, ofNat_unbcdValue_bcdValue hmonth99]

end Sys2Proof.Machine
end
